-- ==== Sys2Proof/Word.lean ====
section
/-!
DEFINITION. The plain data types of the core: bytes, words, blocks, frames and the 4x4 state matrix.
Rules 00_scope.md R9, R10; 10_state.md R20.
-/

namespace Sys2Proof

/-- A byte, bit 7 the most significant, always unsigned (R9). -/
abbrev Byte := BitVec 8

/-- A 32-bit word made of four bytes (R9, R10). -/
abbrev Word := BitVec 32

/-- A block: exactly 16 bytes, byte 0 first (R6 `BLOCK_BYTES`, R10). A 16-byte key has the same shape. -/
abbrev Block := Vector Byte 16

/-- A command or response frame: a byte string, byte 0 first in time (R54, R80, R81). -/
abbrev Frame := List Byte

/-- One column `s[0,c] .. s[3,c]` of the state matrix (R20). -/
structure Column where
  r0 : Byte
  r1 : Byte
  r2 : Byte
  r3 : Byte
  deriving DecidableEq, Repr

/-- The contents of the 16 state bytes `s[r,c]`, by columns (R20). -/
structure StateMatrix where
  c0 : Column
  c1 : Column
  c2 : Column
  c3 : Column
  deriving DecidableEq, Repr

/-- The direction of a block command: the bit `DIR`, 0 encrypt and 1 decrypt (10_state.md R27). -/
inductive Direction where
  | encrypt
  | decrypt
  deriving DecidableEq, Repr, Inhabited

end Sys2Proof
end

