-- ==== Sys2Proof/Config.lean ====
section
/-!
DEFINITION. What an implementation fixes (00_scope.md R6, R7) and the free values (93_implementation_defined.md U11).
-/

namespace Sys2Proof

/-- The parameters of 00_scope.md R7 that some rule depends on and that the spec leaves `OPEN`.
Decoding and the step take them as an argument. -/
structure Params where
  /-- `PAYLOAD_MAX`: the longest payload the transport can carry (R7, R80; log 7). -/
  payloadMax : Nat
  /-- `HAS_RDRK`: whether the RDRK command is connected (R7, R85, R211; log 8). -/
  hasRdrk : Bool
  deriving DecidableEq, Repr

/-- What R7 demands of the parameters: `PAYLOAD_MAX` at least 16. -/
abbrev Params.Wf (p : Params) : Prop := 16 ≤ p.payloadMax

namespace Config

/-- The machine's own parameters: R7's suggested `PAYLOAD_MAX` 255 and the default `HAS_RDRK` yes.
DESIGN CHOICE (logs 7, 8): both values are R7's own suggestion and default. -/
def params : Params := { payloadMax := 255, hasRdrk := true }

/-- `BLOCK_BYTES` (R6). -/
abbrev blockBytes : Nat := 16

/-- `KEY_BYTES` (R6). -/
abbrev keyBytes : Nat := 16

/-- `N_WORDS`, the number of round-key words (R6). -/
abbrev nWords : Nat := 44

/-- `N_ROUND_KEYS`, the number of values of the round counter (R6). -/
abbrev nRoundKeys : Nat := 11

/-- `LAT_LOADKEY` (R7, R291): finite and positive, nothing reads it (log 10). -/
opaque latLoadkey : ℕ+

/-- `LAT_BLOCK` (R7, R291): finite and positive, nothing reads it (log 10). -/
opaque latBlock : ℕ+

/-- `LAT_BYTE` (R7, R291): finite and positive, nothing reads it (log 10). -/
opaque latByte : ℕ+

/-- FREE VALUE (log 5): what `RND` holds after a command or a reset signal that leaves it any value (U11). -/
opaque freeRnd : Nat → BitVec 4

/-- FREE VALUE (log 5): what `KI` holds after a command or a reset signal that leaves it any value (U11). -/
opaque freeKi : Nat → BitVec 6

/-- FREE VALUE (log 5): what `DIR` holds after a command or a reset signal that leaves it any value (U11). -/
opaque freeDir : Nat → Direction

end Config

end Sys2Proof
end

