-- ==== Sys2Proof/Syntax.lean ====
section
/-!
DEFINITION. The commands, one constructor per row of spec/opcode_table.json, with their operands as
30_encoding.md R83 assembles them from the payload.
-/

namespace Sys2Proof

/-- A decoded command frame (R83, R84). A frame that decodes to nothing is no command (R85). -/
inductive Instr where
  /-- LOADKEY `key`: the key is the whole payload, of any length (R83). -/
  | loadkey (key : List Byte)
  /-- ENCBLK `B`. -/
  | encblk (b : Block)
  /-- DECBLK `B`. -/
  | decblk (b : Block)
  /-- GFMUL `c, s`: the constant is a full byte (R83). -/
  | gfmul (c : Byte) (s : Byte)
  /-- SBOX `b`. -/
  | sbox (b : Byte)
  /-- ISBOX `b`. -/
  | isbox (b : Byte)
  /-- RDRK `i`, 0..43 (R84). -/
  | rdrk (i : Fin 44)
  /-- STATUS. -/
  | status
  deriving DecidableEq, Repr

end Sys2Proof
end

