-- ==== Sys2Proof/WellFormed.lean ====
section
/-!
DEFINITION. Which commands a host can present to a core with given parameters. The size of a block and the range of
RDRK's index are in the types of Syntax.lean; what is left are the two parameters of 00_scope.md R7.
-/

namespace Sys2Proof

/-- A command is well formed for the parameters: a LOADKEY payload fits the transport (30_encoding.md R80), and RDRK is
there only where it is connected (R85, R211). -/
def Instr.wf (p : Params) : Instr → Bool
  | .loadkey key => decide (key.length ≤ p.payloadMax)
  | .encblk _ => true
  | .decblk _ => true
  | .gfmul _ _ => true
  | .sbox _ => true
  | .isbox _ => true
  | .rdrk _ => p.hasRdrk
  | .status => true

end Sys2Proof
end

