-- ==== Sys2Proof/Decode.lean ====
section
/-!
DEFINITION. Decoding of command frames (30_encoding.md R80 to R87), the encoder written from the same table, and the
opcode table's own numbering of a frame's bits.
-/

namespace Sys2Proof

/-- Why a frame is illegal: the cases R85 lists. The core answers all of them alike (R245) and stores none (R247). -/
inductive Illegal where
  /-- The empty byte string. -/
  | emptyFrame
  /-- An opcode outside 0x01..0x08. -/
  | unknownOpcode
  /-- A payload length other than the one R82 requires. -/
  | payloadLength
  /-- RDRK with an index in 44..255. -/
  | wordIndex
  /-- RDRK on a core whose parameter `HAS_RDRK` is no. -/
  | noRdrk
  deriving DecidableEq, Repr

/-- The opcode of a command (R82). -/
def opcodeOf : Instr → Byte
  | .loadkey _ => 0x01#8
  | .encblk _ => 0x02#8
  | .decblk _ => 0x03#8
  | .gfmul _ _ => 0x04#8
  | .sbox _ => 0x05#8
  | .isbox _ => 0x06#8
  | .rdrk _ => 0x07#8
  | .status => 0x08#8

/-- A list of exactly 16 bytes as a block, byte 0 first (R83). -/
def blockOfList (l : List Byte) (h : l.length = 16) : Block := ⟨l.toArray, by simpa using h⟩

/-- A payload that must be exactly 16 bytes, as a block (R84's lines for ENCBLK and DECBLK). -/
def decodeBlock (mk : Block → Instr) (payload : List Byte) : Except Illegal Instr :=
  if h : payload.length = 16 then .ok (mk (blockOfList payload h)) else .error .payloadLength

/-- RDRK's operand: one byte, 0..43, on a core that has the command (R84, R85). -/
def decodeRdrk (p : Params) (payload : List Byte) : Except Illegal Instr :=
  if p.hasRdrk then
    match payload with
    | [i] => if h : i.toNat < 44 then .ok (.rdrk ⟨i.toNat, h⟩) else .error .wordIndex
    | _ => .error .payloadLength
  else .error .noRdrk

/-- R84 for a frame with at least its opcode byte. -/
def decodePayload (p : Params) (op : Byte) (payload : List Byte) : Except Illegal Instr :=
  if op = 0x01#8 then .ok (.loadkey payload)
  else if op = 0x02#8 then decodeBlock .encblk payload
  else if op = 0x03#8 then decodeBlock .decblk payload
  else if op = 0x04#8 then
    match payload with
    | [c, s] => .ok (.gfmul c s)
    | _ => .error .payloadLength
  else if op = 0x05#8 then
    match payload with
    | [b] => .ok (.sbox b)
    | _ => .error .payloadLength
  else if op = 0x06#8 then
    match payload with
    | [b] => .ok (.isbox b)
    | _ => .error .payloadLength
  else if op = 0x07#8 then decodeRdrk p payload
  else if op = 0x08#8 then
    match payload with
    | [] => .ok .status
    | _ => .error .payloadLength
  else .error .unknownOpcode

/-- `decode(F)`, total on byte strings (R84); `.error` is the rule's `Illegal`, with the reason named. -/
def decode (p : Params) : Frame → Except Illegal Instr
  | [] => .error .emptyFrame
  | op :: payload => decodePayload p op payload

/-- The payload of a command's frame (R83). -/
def payloadOf : Instr → List Byte
  | .loadkey key => key
  | .encblk b => b.toList
  | .decblk b => b.toList
  | .gfmul c s => [c, s]
  | .sbox b => [b]
  | .isbox b => [b]
  | .rdrk i => [BitVec.ofNat 8 i.val]
  | .status => []

/-- The frame of a command (R80, R82, R83). -/
def encode (i : Instr) : Frame := opcodeOf i :: payloadOf i

/-- The payload length R82 requires after an opcode byte; for LOADKEY, which takes any, the one that succeeds.
Used only to lay out the opcode table's words, which give no bits to operands (log 9). -/
def tablePayloadLength (op : Byte) : Nat :=
  if op = 0x01#8 then 16
  else if op = 0x02#8 then 16
  else if op = 0x03#8 then 16
  else if op = 0x04#8 then 2
  else if op = 0x05#8 then 1
  else if op = 0x06#8 then 1
  else if op = 0x07#8 then 1
  else 0

/-- The first `n` bytes of a frame whose bit 0 is the least significant bit of byte 0. -/
def bytesOfNat : Nat → Nat → List Byte
  | 0, _ => []
  | n + 1, w => BitVec.ofNat 8 w :: bytesOfNat n (w / 256)

/-- The frame the opcode table's word stands for: the `nbits / 8` bytes it gives, then zero bytes up to the payload length
the opcode requires (log 9). -/
def tableFrame (nbits w : Nat) : Frame :=
  let given := nbits / 8
  bytesOfNat (max given (1 + tablePayloadLength (BitVec.ofNat 8 w))) (w % 2 ^ (8 * given))

/-- What the decoder reads from the opcode table's word (log 9). -/
def decodeTableWord (nbits w : Nat) : Option Instr :=
  match decode Config.params (tableFrame nbits w) with
  | .ok i => some i
  | .error _ => none

end Sys2Proof
end

