-- ==== Sys2Proof/Machine/State.lean ====
section
/-!
DEFINITION. The state of the core and its two streams (10_state.md), the reasons a step can stop, and the state after
reset (10_state.md R38, 70_reset_and_hazards.md R281).
-/

namespace Sys2Proof.Machine

/-- The machine's state: everything 10_state.md names, plain data. -/
structure State where
  /-- STATE, the 16 bytes `s[r,c]`; `none` is `no value` in all 16, which are always written and voided together
  (R20, R21, R33; log 6). -/
  block : Option StateMatrix
  /-- W, the 44 round-key words; `none` is `no value` in that word (R24, R26, R33; log 6). -/
  w : Vector (Option Word) 44
  /-- `KS_VALID`, STATUS bit 0 (R30). -/
  ksValid : Bool
  /-- `ERR.INVALID_KEY`, STATUS bit 1, sticky (R30, R32). -/
  errInvalidKey : Bool
  /-- `ERR.UNSUPPORTED_OP`, STATUS bit 2, sticky (R30, R32). -/
  errUnsupportedOp : Bool
  /-- `ERR.KEY_NOT_READY`, STATUS bit 3, sticky (R30, R32). -/
  errKeyNotReady : Bool
  /-- `ERR.ILLEGAL_CMD`, STATUS bit 4, sticky (R30, R32). -/
  errIllegalCmd : Bool
  /-- `RND`, the round counter (R27, R28). -/
  rnd : BitVec 4
  /-- `KI`, the key-schedule word index (R27, R28). -/
  ki : BitVec 6
  /-- `DIR`, the direction of the block command in progress (R27). -/
  dir : Direction
  /-- The command stream: frames the host has sent and the core has not taken, oldest first (R36; log 1). -/
  cmdIn : List Frame
  /-- The response stream: frames the core has emitted and the host has not taken, oldest first (R36; log 1). -/
  rspOut : List Frame
  /-- The reset signal, an input the host drives (R280; log 3). -/
  resetIn : Bool
  /-- The model's own field: which free value comes next (log 5). -/
  freeIdx : Nat
  deriving DecidableEq, Repr

/-- Why a step stops with a fault. Both are R33's "fault of the model"; no conforming run raises either. -/
inductive Fault where
  /-- Raised by a read of W[i] (AddRoundKey, the expansion, RDRK) while the word holds `no value` (R33). Safe: the model
  stops where the spec gives no value; `Inv` (Safety.lean) rules it out. -/
  | noValueW (i : Fin 44)
  /-- Raised by a micro-operation or StoreState that reads STATE while it holds `no value` (R33). Safe: the model stops where
  the spec gives no value; every command loads STATE first. -/
  | noValueState
  deriving DecidableEq, Repr

/-- Why the model gives something no meaning. -/
inductive Refusal where
  /-- Raised by exec for an instruction that has no meaning yet; no arm of exec raises it. Safe. -/
  | notModelled (mnemonic : String)
  /-- Raised by the host driver's DECRYPT (Driver.lean) on the empty buffer, which the spec tells a model to refuse
  (45_buffer_driver.md R229; log 13). No step of the core raises it. Safe. -/
  | decryptEmptyBuffer
  deriving DecidableEq, Repr

/-- The outcome of a step or of a part of one. -/
abbrev Outcome := Host.Outcome State Fault Refusal

/-- W with `no value` in every word (R26, R38). -/
def noSchedule : Vector (Option Word) 44 := Vector.replicate 44 none

/-- The state right after reset (R38, R281). `rnd`, `ki` and `dir`, which R38 leaves unspecified, hold the values log 4 names
(DESIGN CHOICE), and `freeIdx` the value log 5 names (DESIGN CHOICE). -/
def State.reset : State :=
  { block := none
    w := noSchedule
    ksValid := false
    errInvalidKey := false
    errUnsupportedOp := false
    errKeyNotReady := false
    errIllegalCmd := false
    rnd := 0#4
    ki := 4#6
    dir := .encrypt
    cmdIn := []
    rspOut := []
    resetIn := false
    freeIdx := 0 }

end Sys2Proof.Machine
end

