-- ==== Sys2Proof/Machine/Flags.lean ====
section
/-!
DEFINITION. The STATUS register, `HALTED`, the status codes, and the sticky bit of each error
(10_state.md R30 to R32; 30_encoding.md R90; 60_exceptions.md R240).
-/

namespace Sys2Proof.Machine

/-- `HALTED`: the value `ERR.INVALID_KEY or ERR.UNSUPPORTED_OP`, not a stored bit (R31). -/
def State.halted (s : State) : Bool := s.errInvalidKey || s.errUnsupportedOp

/-- The STATUS register as R210 assembles it: bits 7:5 zero, then the four `ERR` bits, then `KS_VALID` (R30). -/
def State.statusReg (s : State) : Byte :=
  0b000#3 ++ BitVec.ofBool s.errIllegalCmd ++ BitVec.ofBool s.errKeyNotReady ++ BitVec.ofBool s.errUnsupportedOp
    ++ BitVec.ofBool s.errInvalidKey ++ BitVec.ofBool s.ksValid

/-- The statuses of response byte 0 (R90). `malformedCiphertext` is the host driver's; the core never emits it. -/
inductive StatusCode where
  | ok
  | invalidKey
  | unsupportedOperation
  | malformedCiphertext
  | keyNotReady
  | illegalCommand
  | halted
  deriving DecidableEq, Repr

/-- The number of a status (R90). -/
def codeOf : StatusCode → Byte
  | .ok => 0x00#8
  | .invalidKey => 0x01#8
  | .unsupportedOperation => 0x02#8
  | .malformedCiphertext => 0x03#8
  | .keyNotReady => 0x04#8
  | .illegalCommand => 0x05#8
  | .halted => 0x06#8

/-- The four errors `raise` is defined for (60_exceptions.md R250). -/
inductive CoreError where
  | invalidKey
  | unsupportedOperation
  | keyNotReady
  | illegalCommand
  deriving DecidableEq, Repr

/-- The status an error answers with (R240). -/
def statusOf : CoreError → StatusCode
  | .invalidKey => .invalidKey
  | .unsupportedOperation => .unsupportedOperation
  | .keyNotReady => .keyNotReady
  | .illegalCommand => .illegalCommand

/-- `ERR.<bit of E> <- 1` (R250); the bits are sticky (R32). -/
def State.setError (s : State) : CoreError → State
  | .invalidKey => { s with errInvalidKey := true }
  | .unsupportedOperation => { s with errUnsupportedOp := true }
  | .keyNotReady => { s with errKeyNotReady := true }
  | .illegalCommand => { s with errIllegalCmd := true }

end Sys2Proof.Machine
end

