-- ==== Sys2Proof/Machine/Operands.lean ====
section
/-!
DEFINITION. Words made of bytes, the block-to-state mapping and the round-key view: every way an operand is taken apart or
put together (00_scope.md R10; 20_memory.md R51 to R54; 10_state.md R25; 30_encoding.md R83).
-/

namespace Sys2Proof.Machine

/-- `word(b0,b1,b2,b3)`, `b0` in bits 31:24 (R10, R52). -/
def word (b0 b1 b2 b3 : Byte) : Word := b0 ++ b1 ++ b2 ++ b3

/-- `byte_j(w)`, bits `31-8j` down to `24-8j`; `byte_0` is the most significant (R10). -/
def byteOf (w : Word) (j : Fin 4) : Byte := w.extractLsb' (24 - 8 * j.val) 8

/-- The four bytes of a word, most significant first: how RDRK sends one (R54, R83). -/
def bytesOfWord (w : Word) : List Byte := [byteOf w 0, byteOf w 1, byteOf w 2, byteOf w 3]

/-- Word `i` (0..3) of a 16-byte key: its bytes `4i .. 4i+3` (42_key_schedule.md R152, 20_memory.md R52). -/
def keyWord (key : Block) (i : Fin 4) : Word :=
  word (key.get ⟨4 * i.val, by omega⟩) (key.get ⟨4 * i.val + 1, by omega⟩)
    (key.get ⟨4 * i.val + 2, by omega⟩) (key.get ⟨4 * i.val + 3, by omega⟩)

/-- `s[r,c]` within one column. -/
def rowOf (a : Column) (r : Fin 4) : Byte :=
  match r with
  | 0 => a.r0
  | 1 => a.r1
  | 2 => a.r2
  | 3 => a.r3

/-- Column `c` of the state. -/
def columnOf (m : StateMatrix) (c : Fin 4) : Column :=
  match c with
  | 0 => m.c0
  | 1 => m.c1
  | 2 => m.c2
  | 3 => m.c3

/-- `s[r,c]` (R20, R50). -/
def cell (m : StateMatrix) (r c : Fin 4) : Byte := rowOf (columnOf m c) r

/-- The column whose row `r` is `f r`. -/
def columnFrom (f : Fin 4 → Byte) : Column := ⟨f 0, f 1, f 2, f 3⟩

/-- The parallel assignment `all r,c: s[r,c] <- f r c` (00_scope.md R11). -/
def matrixFrom (f : Fin 4 → Fin 4 → Byte) : StateMatrix :=
  ⟨columnFrom fun r => f r 0, columnFrom fun r => f r 1, columnFrom fun r => f r 2, columnFrom fun r => f r 3⟩

/-- LoadState's mapping: block byte `i` goes to row `i mod 4`, column `i div 4` (R51, 43 R171). -/
def matrixOfBlock (b : Block) : StateMatrix := matrixFrom fun r c => b.get ⟨r.val + 4 * c.val, by omega⟩

/-- StoreState's mapping: block byte `i` is `s[i mod 4, i div 4]` (R51, 43 R172). -/
def blockOfMatrix (m : StateMatrix) : Block :=
  #v[cell m 0 0, cell m 1 0, cell m 2 0, cell m 3 0, cell m 0 1, cell m 1 1, cell m 2 1, cell m 3 1,
     cell m 0 2, cell m 1 2, cell m 2 2, cell m 3 2, cell m 0 3, cell m 1 3, cell m 2 3, cell m 3 3]

/-- Index `4k + c` of the word of round key `k` that meets column `c` (R25, R53). -/
def roundWord (k : Fin 11) (c : Fin 4) : Fin 44 := ⟨4 * k.val + c.val, by omega⟩

/-- Four words laid over the state: `byte_r` of word `c` at `s[r,c]` (R53). -/
def matrixOfWords (w0 w1 w2 w3 : Word) : StateMatrix :=
  ⟨columnFrom (byteOf w0), columnFrom (byteOf w1), columnFrom (byteOf w2), columnFrom (byteOf w3)⟩

end Sys2Proof.Machine
end

