-- ==== Sys2Proof/Machine/Ops.lean ====
section
/-!
DEFINITION. The named operations on the state: reading and writing STATE and W, sequencing, answering, raising an error,
what a finished command leaves, reset, and the host's three actions.
-/

namespace Sys2Proof.Machine

/-- Do `f` after `o`, unless `o` stopped. -/
def andThen (o : Outcome) (f : State → Outcome) : Outcome :=
  match o with
  | .next s => f s
  | .fault r => .fault r
  | .refused r => .refused r

/-- Read `W[i]` and go on with it; a word that holds `no value` is a fault (R33, R50). -/
def readW (i : Fin 44) (s : State) (k : Word → Outcome) : Outcome :=
  match s.w.get i with
  | some v => k v
  | none => .fault (.noValueW i)

/-- `W[i] <- v` (R26, R50). -/
def State.writeW (s : State) (i : Fin 44) (v : Word) : State := { s with w := s.w.set i.val (some v) i.isLt }

/-- `KS_VALID <- 0; W[0..43] <- no value`: LOADKEY gives up the old schedule first (R34, 42 R158). -/
def State.dropSchedule (s : State) : State := { s with ksValid := false, w := noSchedule }

/-- Read STATE and go on with it; STATE that holds `no value` is a fault (R33). -/
def readBlock (s : State) (k : StateMatrix → Outcome) : Outcome :=
  match s.block with
  | some m => k m
  | none => .fault .noValueState

/-- Write all 16 bytes of STATE (R21). -/
def State.writeBlock (s : State) (m : StateMatrix) : State := { s with block := some m }

/-- `respond(status, bytes)`: emit the response frame, its first byte the status (R81, 00 R11). -/
def State.respond (s : State) (c : StatusCode) (bytes : List Byte) : State :=
  { s with rspOut := s.rspOut ++ [codeOf c :: bytes] }

/-- TAKING AN EXCEPTION, `raise E`: set the sticky bit, answer with the code and no bytes, end the command
(60_exceptions.md R250). Nothing is saved and there is no handler, so there is no return (R252). -/
def State.raise (s : State) (e : CoreError) : State := (s.setError e).respond (statusOf e) []

/-- `RND <- k` (43 R183, R187). -/
def State.setRnd (s : State) (k : Fin 11) : State := { s with rnd := BitVec.ofNat 4 k.val }

/-- `KI <- i` (42 R158). -/
def State.setKi (s : State) (i : Fin 44) : State := { s with ki := BitVec.ofNat 6 i.val }

/-- `DIR <- d` (43 R183, R187). -/
def State.setDir (s : State) (d : Direction) : State := { s with dir := d }

/-- After a block command `RND` and `DIR`, which it wrote, are any value (R28, U11): free values (log 5). -/
def State.retireBlockSequencing (s : State) : State :=
  { s with rnd := Config.freeRnd s.freeIdx, dir := Config.freeDir s.freeIdx, freeIdx := s.freeIdx + 1 }

/-- After a LOADKEY that ran its loop `KI` is any value (R28, U11): a free value (log 5). -/
def State.retireKeySequencing (s : State) : State :=
  { s with ki := Config.freeKi s.freeIdx, freeIdx := s.freeIdx + 1 }

/-- The reset signal takes effect: the reset state of R281, both streams empty, the signal released (log 3).
`RND`, `KI` and `DIR` are unspecified, so free values; the model's own counter goes on (log 5). -/
def State.takeReset (s : State) : State :=
  { State.reset with
    rnd := Config.freeRnd s.freeIdx
    ki := Config.freeKi s.freeIdx
    dir := Config.freeDir s.freeIdx
    freeIdx := s.freeIdx + 1 }

/-- HOST: send a command frame. A frame the transport cannot carry cannot be presented (R80; U14; log 7); the empty byte
string, which is no frame, can (R80's last paragraph). -/
def State.sendFrame (p : Params) (s : State) (f : Frame) : Option State :=
  if f.length ≤ 1 + p.payloadMax then some { s with cmdIn := s.cmdIn ++ [f] } else none

/-- HOST: take the oldest response frame (R61, R81). -/
def State.takeResponse (s : State) : Option (Frame × State) :=
  match s.rspOut with
  | [] => none
  | q :: rest => some (q, { s with rspOut := rest })

/-- HOST: assert the reset signal (70_reset_and_hazards.md R280). -/
def State.assertReset (s : State) : State := { s with resetIn := true }

end Sys2Proof.Machine
end

