-- ==== Sys2Proof/Machine/FieldArithmetic.lean ====
section
/-!
DEFINITION. The GF(2^8) multiplier and the command GFMUL (40_field_arithmetic.md).
-/

namespace Sys2Proof.Machine

/-- `REDUCTION_CONST` (00_scope.md R6). -/
def reductionConst : Byte := 0x1B

/-- Xtime, multiplication by 2: a 9-bit shift left, reduced when it carries out of bit 7 (R111). -/
def xtime (b : Byte) : Byte :=
  let t : BitVec 9 := b.zeroExtend 9 <<< 1
  if t.getLsbD 8 then t.truncate 8 ^^^ reductionConst else t.truncate 8

/-- `mul(1, s)` (R113). -/
def mul1 (s : Byte) : Byte := s

/-- `mul(2, s)` (R114). -/
def mul2 (s : Byte) : Byte := xtime s

/-- `mul(3, s)` (R115). -/
def mul3 (s : Byte) : Byte := xtime s ^^^ s

/-- `mul(4, s)` (R116). -/
def mul4 (s : Byte) : Byte := xtime (xtime s)

/-- `mul(8, s)` (R117). -/
def mul8 (s : Byte) : Byte := xtime (mul4 s)

/-- `mul(9, s)` (R118). -/
def mul9 (s : Byte) : Byte := mul8 s ^^^ s

/-- `mul(11, s)` (R119). -/
def mul11 (s : Byte) : Byte := mul9 s ^^^ mul2 s

/-- `mul(12, s)` (R120). -/
def mul12 (s : Byte) : Byte := mul8 s ^^^ mul4 s

/-- `mul(13, s)` (R121). -/
def mul13 (s : Byte) : Byte := mul12 s ^^^ s

/-- `mul(14, s)` (R122). -/
def mul14 (s : Byte) : Byte := mul12 s ^^^ mul2 s

/-- `mul(c, s)`, the source's `multiply`; `none` is the rule's UnsupportedOperation (R112). -/
def mul (c s : Byte) : Option Byte :=
  match c.toNat with
  | 1 => some (mul1 s)
  | 2 => some (mul2 s)
  | 3 => some (mul3 s)
  | 4 => some (mul4 s)
  | 8 => some (mul8 s)
  | 9 => some (mul9 s)
  | 11 => some (mul11 s)
  | 12 => some (mul12 s)
  | 13 => some (mul13 s)
  | 14 => some (mul14 s)
  | _ => none

/-- Command GFMUL `c, s` (R123): an unsupported constant raises UnsupportedOperation, which halts the core
(60_exceptions.md R242). -/
def execGfmul (c s : Byte) (st : State) : Outcome :=
  match mul c s with
  | some v => .next (st.respond .ok [v])
  | none => .next (st.raise .unsupportedOperation)

end Sys2Proof.Machine
end

