-- ==== Sys2Proof/Machine/BlockTransform.lean ====
section
/-!
DEFINITION. The 10-round block transform in both directions and the commands ENCBLK and DECBLK (43_block_transform.md).
-/

namespace Sys2Proof.Machine

/-- `all r,c: s[r,c] <- f(s[r,c])`. -/
def mapCells (f : Byte → Byte) (m : StateMatrix) : StateMatrix := matrixFrom fun r c => f (cell m r c)

/-- The same operation on each of the four columns. -/
def mapColumns (f : Column → Column) (m : StateMatrix) : StateMatrix := ⟨f m.c0, f m.c1, f m.c2, f m.c3⟩

/-- AddRoundKey on a round key already laid over the state (R173). -/
def addKey (rk m : StateMatrix) : StateMatrix := matrixFrom fun r c => cell m r c ^^^ cell rk r c

/-- SubBytes (R174). -/
def subBytes (m : StateMatrix) : StateMatrix := mapCells sbox m

/-- ShiftRows: `s[r,c] <- s[r, (c + r) mod 4]` (R175). Addition on `Fin 4` is modulo 4. -/
def shiftRows (m : StateMatrix) : StateMatrix := matrixFrom fun r c => cell m r (c + r)

/-- MixColumns on one column: the matrix with rows `2 3 1 1`, rotated right (R176). -/
def mixColumn (a : Column) : Column :=
  { r0 := mul2 a.r0 ^^^ mul3 a.r1 ^^^ mul1 a.r2 ^^^ mul1 a.r3
    r1 := mul1 a.r0 ^^^ mul2 a.r1 ^^^ mul3 a.r2 ^^^ mul1 a.r3
    r2 := mul1 a.r0 ^^^ mul1 a.r1 ^^^ mul2 a.r2 ^^^ mul3 a.r3
    r3 := mul3 a.r0 ^^^ mul1 a.r1 ^^^ mul1 a.r2 ^^^ mul2 a.r3 }

/-- MixColumns (R176). -/
def mixColumns (m : StateMatrix) : StateMatrix := mapColumns mixColumn m

/-- InvSubBytes (R177). -/
def invSubBytes (m : StateMatrix) : StateMatrix := mapCells isbox m

/-- InvShiftRows: `s[r,c] <- s[r, (c - r) mod 4]` (R178). Subtraction on `Fin 4` is modulo 4. -/
def invShiftRows (m : StateMatrix) : StateMatrix := matrixFrom fun r c => cell m r (c - r)

/-- InvMixColumns on one column: the matrix with rows `14 11 13 9`, rotated right (R179). -/
def invMixColumn (a : Column) : Column :=
  { r0 := mul14 a.r0 ^^^ mul11 a.r1 ^^^ mul13 a.r2 ^^^ mul9 a.r3
    r1 := mul9 a.r0 ^^^ mul14 a.r1 ^^^ mul11 a.r2 ^^^ mul13 a.r3
    r2 := mul13 a.r0 ^^^ mul9 a.r1 ^^^ mul14 a.r2 ^^^ mul11 a.r3
    r3 := mul11 a.r0 ^^^ mul13 a.r1 ^^^ mul9 a.r2 ^^^ mul14 a.r3 }

/-- InvMixColumns (R179). -/
def invMixColumns (m : StateMatrix) : StateMatrix := mapColumns invMixColumn m

/-- The micro-operations a round is made of (00_scope.md R8). -/
inductive MicroOp where
  | addRoundKey (k : Fin 11)
  | subBytes
  | shiftRows
  | mixColumns
  | invSubBytes
  | invShiftRows
  | invMixColumns
  deriving DecidableEq, Repr

/-- Read round key `k`, the words `W[4k .. 4k+3]` laid over the state (R173, 20_memory.md R53). -/
def readRoundKey (k : Fin 11) (s : State) (f : StateMatrix → Outcome) : Outcome :=
  readW (roundWord k 0) s fun w0 =>
  readW (roundWord k 1) s fun w1 =>
  readW (roundWord k 2) s fun w2 =>
  readW (roundWord k 3) s fun w3 =>
  f (matrixOfWords w0 w1 w2 w3)

/-- Replace STATE by a function of itself (R21: every micro-operation reads all 16 bytes and writes all 16). -/
def updateBlock (f : StateMatrix → StateMatrix) (s : State) : Outcome :=
  readBlock s fun m => .next (s.writeBlock (f m))

/-- One micro-operation on the core's state (R173 to R179). -/
def runMicroOp (op : MicroOp) (s : State) : Outcome :=
  match op with
  | .addRoundKey k => readRoundKey k s fun rk => updateBlock (addKey rk) s
  | .subBytes => updateBlock subBytes s
  | .shiftRows => updateBlock shiftRows s
  | .mixColumns => updateBlock mixColumns s
  | .invSubBytes => updateBlock invSubBytes s
  | .invShiftRows => updateBlock invShiftRows s
  | .invMixColumns => updateBlock invMixColumns s

/-- Micro-operations one after another. -/
def runMicroOps : List MicroOp → State → Outcome
  | [], s => .next s
  | op :: ops, s => andThen (runMicroOp op s) (runMicroOps ops)

/-- EncRound(k) (R180, R181, R182). -/
def encRound (k : Fin 11) : List MicroOp :=
  if k.val = 0 then [.addRoundKey k]
  else if k.val = 10 then [.subBytes, .shiftRows, .addRoundKey k]
  else [.subBytes, .shiftRows, .mixColumns, .addRoundKey k]

/-- DecRound(k) (R184, R185, R186). -/
def decRound (k : Fin 11) : List MicroOp :=
  if k.val = 10 then [.addRoundKey k, .invShiftRows, .invSubBytes]
  else if k.val = 0 then [.addRoundKey k]
  else [.addRoundKey k, .invMixColumns, .invShiftRows, .invSubBytes]

/-- `for RND = 0..10` (R183). -/
def encOrder : List (Fin 11) := [0, 1, 2, 3, 4, 5, 6, 7, 8, 9, 10]

/-- `for RND = 10 downto 0` (R187). -/
def decOrder : List (Fin 11) := [10, 9, 8, 7, 6, 5, 4, 3, 2, 1, 0]

/-- Rounds one after another, `RND` holding each round's number while it runs (R28, R183, R187). -/
def runRounds (round : Fin 11 → List MicroOp) : List (Fin 11) → State → Outcome
  | [], s => .next s
  | k :: ks, s => andThen (runMicroOps (round k) (s.setRnd k)) (runRounds round ks)

/-- LoadState (R171). -/
def State.loadState (s : State) (b : Block) : State := s.writeBlock (matrixOfBlock b)

/-- StoreState: hand out the block, after which STATE holds `no value` (R172, R21). -/
def storeState (s : State) (k : Block → State → Outcome) : Outcome :=
  readBlock s fun m => k (blockOfMatrix m) { s with block := none }

/-- The core of ENCBLK and DECBLK: `DIR`, LoadState, the rounds, StoreState, the OK response (R183, R187, R188, R189). -/
def transformBlock (d : Direction) (round : Fin 11 → List MicroOp) (order : List (Fin 11)) (b : Block) (s : State) :
    Outcome :=
  andThen (runRounds round order ((s.setDir d).loadState b)) fun t =>
  storeState t fun c u => .next (u.retireBlockSequencing.respond .ok c.toList)

/-- Command ENCBLK `B` (R188). -/
def execEncblk (b : Block) (s : State) : Outcome :=
  if s.ksValid then transformBlock .encrypt encRound encOrder b s else .next (s.raise .keyNotReady)

/-- Command DECBLK `B` (R189). -/
def execDecblk (b : Block) (s : State) : Outcome :=
  if s.ksValid then transformBlock .decrypt decRound decOrder b s else .next (s.raise .keyNotReady)

end Sys2Proof.Machine
end

