-- ==== Sys2Proof/Machine/KeySchedule.lean ====
section
/-!
DEFINITION. The key-schedule expander and the command LOADKEY (42_key_schedule.md).
-/

namespace Sys2Proof.Machine

/-- RotWord: rotate left by one byte (R153). -/
def rotWord (w : Word) : Word := word (byteOf w 1) (byteOf w 2) (byteOf w 3) (byteOf w 0)

/-- SubWord: substitute each of the four bytes (R154). -/
def subWord (w : Word) : Word :=
  word (sbox (byteOf w 0)) (sbox (byteOf w 1)) (sbox (byteOf w 2)) (sbox (byteOf w 3))

/-- RCON, the 10-entry ROM of round constants (R155). -/
def rconTable : Vector Byte 10 := #v[0x01, 0x02, 0x04, 0x08, 0x10, 0x20, 0x40, 0x80, 0x1b, 0x36]

/-- `RCON[k]` (R155). -/
def rcon (k : Fin 10) : Byte := rconTable.get k

/-- The round constant of word `i`: index `i div 4 - 1` (R157). -/
def rconOfWord (i : Fin 44) : Byte := rcon ⟨i.val / 4 - 1, by omega⟩

/-- What R157 (for `i mod 4 = 0`) or R156 (otherwise) puts into `W[i]`, from `W[i-4]` and `W[i-1]`. -/
def nextWord (i : Fin 44) (back4 back1 : Word) : Word :=
  if i.val % 4 = 0 then back4 ^^^ (subWord (rotWord back1) ^^^ word (rconOfWord i) 0x00 0x00 0x00)
  else back4 ^^^ back1

/-- `W[i] <- word(key[4i], ..)` for i in 0..3 (R152). -/
def State.writeKeyWords (s : State) (key : Block) : State :=
  (((s.writeW 0 (keyWord key 0)).writeW 1 (keyWord key 1)).writeW 2 (keyWord key 2)).writeW 3 (keyWord key 3)

/-- The index `j` places before `i`; used with `i ≥ j` only (R156, R157). -/
def wordBefore (i : Fin 44) (j : Nat) : Fin 44 := ⟨i.val - j, by omega⟩

/-- One turn of LOADKEY's loop with `KI = i` (R158). -/
def expandWord (i : Fin 44) (s : State) : Outcome :=
  readW (wordBefore i 4) (s.setKi i) fun back4 =>
  readW (wordBefore i 1) (s.setKi i) fun back1 =>
  .next ((s.setKi i).writeW i (nextWord i back4 back1))

/-- The last `n` turns of LOADKEY's loop, `KI = 44-n .. 43` ascending (R158). -/
def expandLoop : Nat → State → Outcome
  | 0, s => .next s
  | n + 1, s => andThen (expandWord ⟨43 - n, by omega⟩ s) (expandLoop n)

/-- LOADKEY with a key of 16 bytes: expansion, then `KS_VALID <- 1` and the OK response (R158). -/
def loadSchedule (key : Block) (s : State) : Outcome :=
  andThen (expandLoop 40 (s.writeKeyWords key)) fun t =>
  .next (({ t with ksValid := true } : State).retireKeySequencing.respond .ok [])

/-- Command LOADKEY `key` (R158): the old schedule is given up, then the length is checked (R151, 60_exceptions.md R241),
then the 44 words are computed. -/
def execLoadkey (key : List Byte) (s : State) : Outcome :=
  if h : key.length = Config.keyBytes then loadSchedule (blockOfList key h) s.dropSchedule
  else .next (s.dropSchedule.raise .invalidKey)

end Sys2Proof.Machine
end

