-- ==== Sys2Proof/Machine/SystemCommands.lean ====
section
/-!
DEFINITION. The commands STATUS and RDRK (44_system_commands.md).
-/

namespace Sys2Proof.Machine

/-- Command STATUS (R210): the status register, nothing written, the sticky bits included. -/
def execStatus (s : State) : Outcome := .next (s.respond .ok [s.statusReg])

/-- Command RDRK `i` (R211). -/
def execRdrk (i : Fin 44) (s : State) : Outcome :=
  if s.ksValid then readW i s fun w => .next (s.respond .ok (bytesOfWord w)) else .next (s.raise .keyNotReady)

end Sys2Proof.Machine
end

