-- ==== Sys2Proof/Machine/Dispatch.lean ====
section
/-!
DEFINITION. exec: one arm per command, a direct call of its meaning (30_encoding.md R82, last column). The check of HALTED
and the illegal frames stand around it, in Frame.lean, as in R91.
-/

namespace Sys2Proof.Machine

/-- Execute a decoded command by its rule (30_encoding.md R91, last line). -/
def exec (i : Instr) (s : State) : Host.Outcome State Fault Refusal :=
  match i with
  | .loadkey key => Sys2Proof.Machine.execLoadkey key s
  | .encblk b => Sys2Proof.Machine.execEncblk b s
  | .decblk b => Sys2Proof.Machine.execDecblk b s
  | .gfmul c x => Sys2Proof.Machine.execGfmul c x s
  | .sbox b => Sys2Proof.Machine.execSbox b s
  | .isbox b => Sys2Proof.Machine.execIsbox b s
  | .rdrk j => Sys2Proof.Machine.execRdrk j s
  | .status => Sys2Proof.Machine.execStatus s

end Sys2Proof.Machine
end

