-- ==== Sys2Proof/Machine/Frame.lean ====
section
/-!
DEFINITION. The command step: taking a frame from the command stream, decoding it, the check of HALTED, the illegal frames
(30_encoding.md R91, 60_exceptions.md R245, R246, R249), waiting, and the reset signal (70_reset_and_hazards.md R280, R282).
-/

namespace Sys2Proof.Machine

/-- The step of R91 for a frame that has been taken from the command stream. -/
def runFrame (p : Params) (f : Frame) (s : State) : Outcome :=
  match decode p f with
  | .ok i => if s.halted ∧ i ≠ .status then .next (s.respond .halted []) else exec i s
  | .error _ => if s.halted then .next (s.respond .halted []) else .next (s.raise .illegalCommand)

/-- One step of the core. The reset signal comes first: a frame received but not answered is then dropped (R282). With no
frame in the command stream the core waits, which has no effect (60_exceptions.md R261; log 2). Otherwise the oldest frame is
taken and executed (R91, 20_memory.md R61). -/
def coreStep (p : Params) (s : State) : Outcome :=
  if s.resetIn then .next s.takeReset
  else
    match s.cmdIn with
    | [] => .next s
    | f :: rest => runFrame p f { s with cmdIn := rest }

/-- `f` placed as the next frame the core takes: at the front of the command stream, with the reset signal released
(log 9). -/
def State.withFrame (s : State) (f : Frame) : State := { s with cmdIn := f :: s.cmdIn, resetIn := false }

end Sys2Proof.Machine
end

