-- ==== Sys2Proof/Machine/Step.lean ====
section
/-!
DEFINITION. The machine's step, for the parameters of Config.lean, and where its next command comes from.
-/

namespace Sys2Proof.Machine

/-- One step of the core with its parameters fixed (30_encoding.md R91). -/
def step (s : State) : Host.Outcome State Fault Refusal := coreStep Config.params s

/-- The opcode table's word as the frame the very next step takes (log 9). -/
def State.withFetchWord (s : State) (nbits w : Nat) : State := s.withFrame (tableFrame nbits w)

end Sys2Proof.Machine
end

