-- ==== Sys2Proof/Machine/Contracts.lean ====
section
/-!
DEFINITION. The source's function contracts, written as pure functions straight from their rules and apart from the core's
sequencing: `expand` as a relation, `encryptBlock`, `decryptBlock`, and the field product. Statements compare the core with them.
-/

namespace Sys2Proof.Machine

/-- `ws` is the schedule that `expand(key)` yields: R152 for words 0..3, R157 for the first word of a round key, R156 for the
others (42_key_schedule.md; the invariant of 10_state.md R25). -/
def ScheduleOf (key : Block) (ws : Vector Word 44) : Prop :=
  (∀ i : Fin 4, ws.get ⟨i.val, by omega⟩ = keyWord key i) ∧
  (∀ i : Fin 44, 4 ≤ i.val → i.val % 4 ≠ 0 →
    ws.get i = ws.get ⟨i.val - 4, by omega⟩ ^^^ ws.get ⟨i.val - 1, by omega⟩) ∧
  (∀ i : Fin 44, 4 ≤ i.val → i.val % 4 = 0 →
    ws.get i = ws.get ⟨i.val - 4, by omega⟩ ^^^
      (subWord (rotWord (ws.get ⟨i.val - 1, by omega⟩)) ^^^ word (rcon ⟨i.val / 4 - 1, by omega⟩) 0x00 0x00 0x00))

/-- Round key `k`, the words `W[4k .. 4k+3]` laid over the state (10_state.md R25, 20_memory.md R53). -/
def roundKey (ws : Vector Word 44) (k : Fin 11) : StateMatrix :=
  matrixOfWords (ws.get (roundWord k 0)) (ws.get (roundWord k 1)) (ws.get (roundWord k 2)) (ws.get (roundWord k 3))

/-- EncRound(k) as a function of the state matrix (43 R180, R181, R182). -/
def encRoundOn (ws : Vector Word 44) (k : Fin 11) (m : StateMatrix) : StateMatrix :=
  if k = 0 then addKey (roundKey ws 0) m
  else if k = 10 then addKey (roundKey ws 10) (shiftRows (subBytes m))
  else addKey (roundKey ws k) (mixColumns (shiftRows (subBytes m)))

/-- DecRound(k) as a function of the state matrix (43 R184, R185, R186). -/
def decRoundOn (ws : Vector Word 44) (k : Fin 11) (m : StateMatrix) : StateMatrix :=
  if k = 0 then addKey (roundKey ws 0) m
  else if k = 10 then invSubBytes (invShiftRows (addKey (roundKey ws 10) m))
  else invSubBytes (invShiftRows (invMixColumns (addKey (roundKey ws k) m)))

/-- `encryptBlock` (43 R183). -/
def encryptBlock (ws : Vector Word 44) (b : Block) : Block :=
  blockOfMatrix (([0, 1, 2, 3, 4, 5, 6, 7, 8, 9, 10] : List (Fin 11)).foldl (fun m k => encRoundOn ws k m) (matrixOfBlock b))

/-- `decryptBlock` (43 R187). -/
def decryptBlock (ws : Vector Word 44) (b : Block) : Block :=
  blockOfMatrix (([10, 9, 8, 7, 6, 5, 4, 3, 2, 1, 0] : List (Fin 11)).foldl (fun m k => decRoundOn ws k m) (matrixOfBlock b))

/-- `xtime` applied `k` times. -/
def xtimes : Nat → Byte → Byte
  | 0, s => s
  | k + 1, s => xtime (xtimes k s)

/-- The product of two bytes in GF(2^8): the XOR, over the set bits `k` of `c`, of `xtime` applied `k` times to `s`
(40_field_arithmetic.md R125). -/
def fieldProduct (c s : Byte) : Byte :=
  ([0, 1, 2, 3, 4, 5, 6, 7] : List Nat).foldl (fun acc k => if c.getLsbD k then acc ^^^ xtimes k s else acc) 0x00#8

/-- The ten constants of 40_field_arithmetic.md R112, 00_scope.md R6 `MUL_CONSTANTS`. -/
def mulConstants : List Byte := [1, 2, 3, 4, 8, 9, 11, 12, 13, 14]

/-- `MIX_ROW0` (00_scope.md R6). -/
def mixRow0 : Vector Byte 4 := #v[2, 3, 1, 1]

/-- `INVMIX_ROW0` (00_scope.md R6). -/
def invMixRow0 : Vector Byte 4 := #v[14, 11, 13, 9]

end Sys2Proof.Machine
end

