-- ==== Sys2Proof/Machine/Driver.lean ====
section
/-!
DEFINITION. The host-side buffer driver: pad, ENCRYPT and DECRYPT as the command frames they send and the response frames
they read, and the manager that loads its key once, before the first block (45_buffer_driver.md). It is host software, not hardware (R5), and adds nothing to the core; it is modelled so
that the source's padding and round-trip properties can be stated (logs 12, 13, 17).
-/

namespace Sys2Proof.Machine

/-- Why a driver operation ends without an output. -/
inductive DriverError where
  /-- MalformedCiphertext: DECRYPT's input length is not a multiple of 16; no frame is sent (R224). -/
  | malformedCiphertext
  /-- The core answered with a status other than OK, which the driver surfaces (R222). -/
  | coreStatus (code : Byte)
  /-- No response came, because reset cut the command off (70_reset_and_hazards.md R282). -/
  | noResponse
  /-- The transport cannot carry the frame (00_scope.md R7 `PAYLOAD_MAX`). -/
  | frameTooLong
  deriving DecidableEq, Repr

/-- What a driver operation ends with: the core's state after it, and an output or an error. -/
abbrev DriverOutcome (α : Type) := Host.Outcome (State × Except DriverError α) Fault Refusal

/-- `n` steps of the core. -/
def runSteps (p : Params) : Nat → State → Outcome
  | 0, s => .next s
  | n + 1, s => andThen (coreStep p s) (runSteps p n)

/-- Send one frame, let the core work until it has taken it, and take the response that belongs to it, the last one emitted
(R228; log 13). -/
def exchange (p : Params) (f : Frame) (s : State) : DriverOutcome Frame :=
  match s.sendFrame p f with
  | none => .next (s, .error .frameTooLong)
  | some t =>
    match runSteps p t.cmdIn.length t with
    | .next u =>
      match u.rspOut.getLast? with
      | some q => .next ({ u with rspOut := u.rspOut.dropLast }, .ok q)
      | none => .next (u, .error .noResponse)
    | .fault r => .fault r
    | .refused r => .refused r

/-- The result bytes of a response, or the status it reports (30_encoding.md R81). -/
def resultOf : Frame → Except DriverError (List Byte)
  | [] => .error .noResponse
  | code :: bytes => if code = 0x00#8 then .ok bytes else .error (.coreStatus code)

/-- One command: exchange its frame, keep the result bytes of an OK response. -/
def command (p : Params) (f : Frame) (s : State) : DriverOutcome (List Byte) :=
  match exchange p f s with
  | .next (t, .ok q) => .next (t, resultOf q)
  | .next (t, .error e) => .next (t, .error e)
  | .fault r => .fault r
  | .refused r => .refused r

/-- One block command per block, in block order; the outputs are concatenated, and the first error ends it with no output
(R222, R223). -/
def commandPerBlock (p : Params) (opcode : Byte) : List (List Byte) → State → DriverOutcome (List Byte)
  | [], s => .next (s, .ok [])
  | b :: bs, s =>
    match command p (opcode :: b) s with
    | .next (t, .ok c) =>
      match commandPerBlock p opcode bs t with
      | .next (u, .ok cs) => .next (u, .ok (c ++ cs))
      | .next (u, .error e) => .next (u, .error e)
      | .fault r => .fault r
      | .refused r => .refused r
    | .next (t, .error e) => .next (t, .error e)
    | .fault r => .fault r
    | .refused r => .refused r

/-- `q[16j .. 16j+15]` for `j = 0 .. n-1`. -/
def chunks : Nat → List Byte → List (List Byte)
  | 0, _ => []
  | n + 1, l => l.take 16 :: chunks n (l.drop 16)

/-- `pad(p)`: always between 1 and 16 zero bytes are added (R221). -/
def pad (p : List Byte) : List Byte := p ++ List.replicate (16 - p.length % 16) 0x00#8

/-- The start-up command: LOADKEY with the provisioned 16-byte key (R220, 70 R284). -/
def loadKey (p : Params) (key : Block) (s : State) : DriverOutcome (List Byte) := command p (0x01#8 :: key.toList) s

/-- Pseudo-command ENCRYPT (R222): the block commands alone, for a core that has the schedule. -/
def encryptBuffer (p : Params) (plain : List Byte) (s : State) : DriverOutcome (List Byte) :=
  commandPerBlock p 0x02#8 (chunks ((pad plain).length / 16) (pad plain)) s

/-- Pseudo-command DECRYPT (R223), for a core that has the schedule: MalformedCiphertext before any frame is sent (R224), no meaning for the empty buffer
(R229), and no padding stripped or checked. -/
def decryptBuffer (p : Params) (cipher : List Byte) (s : State) : DriverOutcome (List Byte) :=
  if cipher.length % 16 ≠ 0 then .next (s, .error .malformedCiphertext)
  else if cipher.length = 0 then .refused .decryptEmptyBuffer
  else commandPerBlock p 0x03#8 (chunks (cipher.length / 16) cipher) s

/-- What the driver knows of the one KeySchedule it owns (R220). -/
inductive ScheduleStatus where
  /-- No ENCRYPT or DECRYPT has needed it yet: no LOADKEY has been sent. -/
  | absent
  /-- LOADKEY was sent and answered OK. -/
  | created
  /-- LOADKEY was tried and failed; it is not tried again (R220, 60_exceptions.md R254; log 17). -/
  | failed (e : DriverError)
  deriving DecidableEq, Repr

/-- The driver's own state, the source's CipherManager: the provisioned key, 16 bytes by its type (R220, 70 R286), and the
schedule it creates once. It is the host's and no part of the core (10_state.md R37 (e)). -/
structure CipherManager where
  key : Block
  schedule : ScheduleStatus
  deriving DecidableEq, Repr

/-- A manager before its first use (R220: created on first use). -/
def CipherManager.new (key : Block) : CipherManager := { key := key, schedule := .absent }

/-- What an operation of the manager ends with: the manager, the core, and an output or an error. -/
abbrev ManagerOutcome (α : Type) := Host.Outcome (CipherManager × State × Except DriverError α) Fault Refusal

/-- A driver operation as one of the manager `m`, which it leaves as it is. -/
def withManager {α : Type} (m : CipherManager) : DriverOutcome α → ManagerOutcome α
  | .next (t, r) => .next (m, t, r)
  | .fault r => .fault r
  | .refused r => .refused r

/-- Create the schedule unless that was done or tried before: the driver's one LOADKEY, whose answer it awaits and checks
(R220, R228, 70 R284; log 17). -/
def ensureSchedule (p : Params) (m : CipherManager) (s : State) : ManagerOutcome Unit :=
  match m.schedule with
  | .created => .next (m, s, .ok ())
  | .failed e => .next (m, s, .error e)
  | .absent =>
    match loadKey p m.key s with
    | .next (t, .ok _) => .next ({ m with schedule := .created }, t, .ok ())
    | .next (t, .error e) => .next ({ m with schedule := .failed e }, t, .error e)
    | .fault r => .fault r
    | .refused r => .refused r

/-- A driver operation that needs the schedule: block commands are sent only after LOADKEY was answered OK (R220, R228). -/
def withSchedule {α : Type} (p : Params) (m : CipherManager) (s : State) (op : State → DriverOutcome α) :
    ManagerOutcome α :=
  match ensureSchedule p m s with
  | .next (n, t, .ok _) => withManager n (op t)
  | .next (n, t, .error e) => .next (n, t, .error e)
  | .fault r => .fault r
  | .refused r => .refused r

/-- The driver's `encrypt` (R220, R222). -/
def CipherManager.encrypt (p : Params) (plain : List Byte) (m : CipherManager) (s : State) : ManagerOutcome (List Byte) :=
  withSchedule p m s (encryptBuffer p plain)

/-- The driver's `decrypt` (R220, R223). A buffer that DECRYPT sends no frame for (R224, R229) needs no schedule. -/
def CipherManager.decrypt (p : Params) (cipher : List Byte) (m : CipherManager) (s : State) : ManagerOutcome (List Byte) :=
  if cipher.length % 16 ≠ 0 ∨ cipher.length = 0 then withManager m (decryptBuffer p cipher s)
  else withSchedule p m s (decryptBuffer p cipher)

/-- The host asserts reset and lets it take effect: the manager is destroyed and a new one stands in its place, whose first use
repeats the start-up (70 R281, R290). -/
def CipherManager.restart (p : Params) (m : CipherManager) (s : State) : Host.Outcome (CipherManager × State) Fault Refusal :=
  match coreStep p s.assertReset with
  | .next t => .next (.new m.key, t)
  | .fault r => .fault r
  | .refused r => .refused r

end Sys2Proof.Machine
end

