-- ==== Sys2Proof/Safety.lean ====
section
/-!
DEFINITION. What holds between commands, and when a state is ready for a command: the terms the statements use.
-/

namespace Sys2Proof.Machine

/-- W holds the words `ws`, none of them `no value`. -/
abbrev State.Holds (s : State) (ws : Vector Word 44) : Prop := ∀ i : Fin 44, s.w.get i = some (ws.get i)

/-- A response frame as 30_encoding.md R81, R83 and R90 allow it: a status the core emits, followed by a result of the size
some command answers with when the status is OK, and by nothing otherwise. -/
def ResponseWf : Frame → Prop
  | [] => False
  | code :: bytes =>
    (code = 0x00#8 ∧ (bytes.length = 0 ∨ bytes.length = 1 ∨ bytes.length = 4 ∨ bytes.length = 16)) ∨
    (bytes = [] ∧ (code = 0x01#8 ∨ code = 0x02#8 ∨ code = 0x04#8 ∨ code = 0x05#8 ∨ code = 0x06#8))

/-- The invariant between commands: STATE holds `no value` (10_state.md R21); with `KS_VALID = 1` W is a whole key schedule
(R25, R34); with `KS_VALID = 0` every word holds `no value` (R26); after an InvalidKey there is no schedule (R241); and
every response emitted is one R81 and R90 allow. -/
structure Inv (s : State) : Prop where
  block_void : s.block = none
  schedule : s.ksValid = true → ∃ key ws, s.Holds ws ∧ ScheduleOf key ws
  no_schedule : s.ksValid = false → ∀ i : Fin 44, s.w.get i = none
  invalid_key : s.errInvalidKey = true → s.ksValid = false
  responses : ∀ q ∈ s.rspOut, ResponseWf q

/-- The core is about to take the frame `f`: the reset signal is released and `f` is the oldest frame of the command
stream (30_encoding.md R91). -/
abbrev State.Takes (s : State) (f : Frame) (rest : List Frame) : Prop := s.resetIn = false ∧ s.cmdIn = f :: rest

/-- The four `ERR` bits of `t` are those of `s`. -/
abbrev SameErrors (s t : State) : Prop :=
  t.errInvalidKey = s.errInvalidKey ∧ t.errUnsupportedOp = s.errUnsupportedOp ∧
  t.errKeyNotReady = s.errKeyNotReady ∧ t.errIllegalCmd = s.errIllegalCmd

/-- A core ready to serve block commands for the schedule `ws`, with nothing else in its command stream: what the driver
needs before ENCRYPT or DECRYPT (45_buffer_driver.md R220, R228). -/
abbrev State.Serving (s : State) (ws : Vector Word 44) : Prop :=
  s.resetIn = false ∧ s.cmdIn = [] ∧ s.halted = false ∧ s.ksValid = true ∧ s.Holds ws

/-- A core that is ready for the driver's first use, whatever key was loaded before or none: it waits and is not halted
(45_buffer_driver.md R220, 70 R284). -/
abbrev State.Ready (s : State) : Prop := s.resetIn = false ∧ s.cmdIn = [] ∧ s.halted = false

/-- A command's own check (60_exceptions.md R249, item 3). -/
def ownStatus (s : State) : Instr → StatusCode
  | .loadkey key => if key.length = 16 then .ok else .invalidKey
  | .encblk _ => if s.ksValid then .ok else .keyNotReady
  | .decblk _ => if s.ksValid then .ok else .keyNotReady
  | .gfmul c _ => if c ∈ mulConstants then .ok else .unsupportedOperation
  | .sbox _ => .ok
  | .isbox _ => .ok
  | .rdrk _ => if s.ksValid then .ok else .keyNotReady
  | .status => .ok

/-- The status a frame is answered with: Halted, then IllegalCommand, then the command's own check, then OK; the frame
`[0x08]` is the well-formed STATUS frame (60_exceptions.md R249). -/
def expectedStatus (p : Params) (s : State) (f : Frame) : StatusCode :=
  if s.halted ∧ f ≠ [0x08#8] then .halted
  else
    match decode p f with
    | .error _ => .illegalCommand
    | .ok i => ownStatus s i

end Sys2Proof.Machine
end

