-- ==== Sys2Proof/Certificates/Slice0/Obligations.lean ====
section
/-!
DEFINITION. The statements for the provers. Each docstring names the rules of spec/ it rests on. An existential `r`, `d`, `k`
or `n` for `rnd`, `dir`, `ki` or `freeIdx` says nothing of a free value (93_implementation_defined.md U11; log 5).
-/

open Sys2Proof Sys2Proof.Machine

/-! ## Encoding (30_encoding.md) -/

/-- Decoding the frame of a well-formed command gives the command back, with every operand, for all parameters
(R82, R83, R84). -/
def Obligations.DecodeOfEncode : Prop :=
  ∀ (p : Params) (i : Instr), i.wf p = true → decode p (encode i) = .ok i

/-- A frame that decodes is the frame of the command it decodes to, so no bit of a legal frame is dropped (R84, R85), and RDRK
is decoded only where it is connected. -/
def Obligations.EncodeOfDecode : Prop :=
  ∀ (p : Params) (f : Frame) (i : Instr), decode p f = .ok i →
    encode i = f ∧ (p.hasRdrk = true ∨ ∀ j, i ≠ .rdrk j)

/-- R84 line by line: what each of its eight forms decodes to, and that no other frame decodes. -/
def Obligations.DecodeByOpcodeAndLength : Prop :=
  ∀ p : Params, p.hasRdrk = true →
    (∀ l, decode p (0x01#8 :: l) = .ok (.loadkey l)) ∧
    (∀ l (h : l.length = 16), decode p (0x02#8 :: l) = .ok (.encblk (blockOfList l h))) ∧
    (∀ l (h : l.length = 16), decode p (0x03#8 :: l) = .ok (.decblk (blockOfList l h))) ∧
    (∀ c s, decode p [0x04#8, c, s] = .ok (.gfmul c s)) ∧
    (∀ b, decode p [0x05#8, b] = .ok (.sbox b)) ∧
    (∀ b, decode p [0x06#8, b] = .ok (.isbox b)) ∧
    (∀ (b : Byte) (h : b.toNat < 44), decode p [0x07#8, b] = .ok (.rdrk ⟨b.toNat, h⟩)) ∧
    decode p [0x08#8] = .ok .status ∧
    (∀ f i, decode p f = .ok i →
      (∃ l, f = 0x01#8 :: l) ∨ (∃ l, f = 0x02#8 :: l ∧ l.length = 16) ∨ (∃ l, f = 0x03#8 :: l ∧ l.length = 16) ∨
      (∃ c s, f = [0x04#8, c, s]) ∨ (∃ b, f = [0x05#8, b]) ∨ (∃ b, f = [0x06#8, b]) ∨
      (∃ b : Byte, f = [0x07#8, b] ∧ b.toNat < 44) ∨ f = [0x08#8])

/-- R85's list of illegal frames is complete and contains no legal one, for all parameters. -/
def Obligations.IllegalFramesAreR85List : Prop :=
  ∀ (p : Params) (f : Frame), (∃ e, decode p f = .error e) ↔
    (f = [] ∨ ∃ (op : Byte) (l : List Byte), f = op :: l ∧
      (op = 0x00#8 ∨ 0x09#8 ≤ op ∨
       ((op = 0x02#8 ∨ op = 0x03#8) ∧ l.length ≠ 16) ∨
       (op = 0x04#8 ∧ l.length ≠ 2) ∨
       ((op = 0x05#8 ∨ op = 0x06#8 ∨ op = 0x07#8) ∧ l.length ≠ 1) ∨
       (op = 0x08#8 ∧ l.length ≠ 0) ∨
       (op = 0x07#8 ∧ ∃ b : Byte, l = [b] ∧ 44 ≤ b.toNat) ∨
       (op = 0x07#8 ∧ p.hasRdrk = false)))

/-- A few frames written out from R82 and R83 decode to the commands they stand for. -/
def Obligations.WrittenFramesDecode : Prop :=
  decode Config.params [0x04#8, 0x03#8, 0x57#8] = .ok (.gfmul 0x03#8 0x57#8) ∧
  decode Config.params [0x05#8, 0x53#8] = .ok (.sbox 0x53#8) ∧
  decode Config.params [0x06#8, 0xed#8] = .ok (.isbox 0xed#8) ∧
  decode Config.params [0x07#8, 0x2b#8] = .ok (.rdrk 43) ∧
  decode Config.params [0x08#8] = .ok .status ∧
  decode Config.params [0x01#8] = .ok (.loadkey [])

/-! ## Reset and the invariant (10_state.md, 70_reset_and_hazards.md) -/

/-- The reset values the spec gives (10_state.md R38, 70 R281): nothing is said of RND, KI and DIR, which R38 leaves
unspecified. -/
def Obligations.ResetStateValues : Prop :=
  State.reset.block = none ∧ (∀ i : Fin 44, State.reset.w.get i = none) ∧ State.reset.ksValid = false ∧
  State.reset.errInvalidKey = false ∧ State.reset.errUnsupportedOp = false ∧ State.reset.errKeyNotReady = false ∧
  State.reset.errIllegalCmd = false ∧ State.reset.halted = false ∧ State.reset.statusReg = 0x00#8 ∧
  State.reset.cmdIn = [] ∧ State.reset.rspOut = []

/-- With the reset signal asserted a step reaches the reset state from any state, a pending frame is dropped and no response
is left for it (70 R280, R281, R282). That the signal takes effect in one step is the model's (log 3). -/
def Obligations.ResetSignalReachesResetState : Prop :=
  ∀ s : State, s.resetIn = true → ∃ t, step s = .next t ∧
    t.block = none ∧ (∀ i : Fin 44, t.w.get i = none) ∧ t.ksValid = false ∧ t.errInvalidKey = false ∧
    t.errUnsupportedOp = false ∧ t.errKeyNotReady = false ∧ t.errIllegalCmd = false ∧ t.halted = false ∧
    t.statusReg = 0x00#8 ∧ t.cmdIn = [] ∧ t.rspOut = []

/-- The invariant of Safety.lean holds after reset. -/
def Obligations.ResetMeetsInvariant : Prop := Inv State.reset

/-- Every step keeps the invariant: STATE is void between commands (10_state.md R21), KS_VALID = 1 means a whole key schedule
(R25, R34, 20_memory.md R62), KS_VALID = 0 means no word has a value (R26), an InvalidKey leaves no schedule (60 R241), and
every response is one R81 and R90 allow. -/
def Obligations.EveryStepKeepsInvariant : Prop :=
  ∀ s t : State, Inv s → step s = .next t → Inv t

/-- Under the invariant no step faults or is refused: no rule reads `no value` (10_state.md R33, R34), and every command
terminates with a response (43 R191). -/
def Obligations.NoStepStopsUnderInvariant : Prop :=
  ∀ s : State, Inv s → ∃ t, step s = .next t

/-! ## The command step (30_encoding.md R91; 60_exceptions.md) -/

/-- A step on a frame that decodes runs the decoded command on the state without that frame, unless the core is halted and the
command is not STATUS (R91). The reset signal must be released (R282). -/
def Obligations.StepRunsDecodedCommand : Prop :=
  ∀ (s : State) (f : Frame) (rest : List Frame) (i : Instr),
    s.Takes f rest → decode Config.params f = .ok i → (s.halted = false ∨ i = .status) →
    step s = exec i { s with cmdIn := rest }

/-- R246: a halted core answers every frame but the STATUS frame with 0x06 and changes nothing else, executes STATUS, and stays
halted whatever it does short of reset. -/
def Obligations.HaltedCoreAnswersStatusOnly : Prop :=
  ∀ s : State, s.halted = true → s.resetIn = false →
    (∀ f rest, s.cmdIn = f :: rest → f ≠ [0x08#8] →
      step s = .next { s with cmdIn := rest, rspOut := s.rspOut ++ [[0x06#8]] }) ∧
    (∀ rest, s.cmdIn = [0x08#8] :: rest →
      step s = .next { s with cmdIn := rest, rspOut := s.rspOut ++ [[0x00#8, s.statusReg]] }) ∧
    (∀ t, step s = .next t → t.halted = true)

/-- R245: a frame that decodes to nothing raises IllegalCommand on a core that is not halted: its sticky bit, the status alone,
no other effect, not fatal. -/
def Obligations.IllegalFrameRaisesIllegalCommand : Prop :=
  ∀ (p : Params) (s : State) (f : Frame) (rest : List Frame) (e : Illegal),
    s.Takes f rest → s.halted = false → decode p f = .error e →
    ∃ t, coreStep p s = .next t ∧
      t = { s with cmdIn := rest, errIllegalCmd := true, rspOut := s.rspOut ++ [[0x05#8]] } ∧ t.halted = false

/-- R249: the status of a response follows from the order of checks Halted, IllegalCommand, the command's own check, OK. -/
def Obligations.ResponseStatusFollowsCheckOrder : Prop :=
  ∀ (s t : State) (f : Frame) (rest : List Frame), s.Takes f rest → step s = .next t →
    ∃ bytes, t.rspOut = s.rspOut ++ [codeOf (expectedStatus Config.params s f) :: bytes] ∧
      (expectedStatus Config.params s f ≠ .ok → bytes = [])

/-- With no frame to take the core waits: the step changes nothing (60 R261; that a waiting step answers the same state is the
model's, log 2). -/
def Obligations.WaitingChangesNothing : Prop :=
  ∀ s : State, s.resetIn = false → s.cmdIn = [] → step s = .next s

/-- One command frame gives exactly one response frame, in order, and consumes exactly that command frame
(20_memory.md R61, 30_encoding.md R81). -/
def Obligations.OneResponsePerFrame : Prop :=
  ∀ (s t : State) (f : Frame) (rest : List Frame), s.Takes f rest → step s = .next t →
    t.cmdIn = rest ∧ ∃ q, t.rspOut = s.rspOut ++ [q] ∧ ResponseWf q

/-- The `ERR` bits are sticky: no step short of reset clears one, and a frame answered OK changes none (10_state.md R32). -/
def Obligations.ErrorBitsAreSticky : Prop :=
  ∀ s t : State, s.resetIn = false → step s = .next t →
    (s.errInvalidKey = true → t.errInvalidKey = true) ∧ (s.errUnsupportedOp = true → t.errUnsupportedOp = true) ∧
    (s.errKeyNotReady = true → t.errKeyNotReady = true) ∧ (s.errIllegalCmd = true → t.errIllegalCmd = true) ∧
    (∀ bytes, t.rspOut = s.rspOut ++ [0x00#8 :: bytes] → SameErrors s t)

/-- W and KS_VALID are written by LOADKEY and reset only (10_state.md R26, R30): a step on any other frame, and a waiting step,
leave them alone. -/
def Obligations.OnlyLoadkeyWritesSchedule : Prop :=
  ∀ s t : State, s.resetIn = false → (∀ key rest, s.cmdIn ≠ (0x01#8 :: key) :: rest) → step s = .next t →
    t.w = s.w ∧ t.ksValid = s.ksValid

/-- R254: a frame that failed and is sent again unchanged is answered with the same status, or with Halted. -/
def Obligations.RepeatedFrameFailsAgain : Prop :=
  ∀ (s t : State) (f : Frame) (rest : List Frame) (e : Byte),
    s.Takes f (f :: rest) → step s = .next t → e ≠ 0x00#8 → t.rspOut = s.rspOut ++ [[e]] →
    ∃ u, step t = .next u ∧ (u.rspOut = t.rspOut ++ [[e]] ∨ u.rspOut = t.rspOut ++ [[0x06#8]])

/-- The frame of every command: the streams' input and the reset signal are never written; only LOADKEY writes W, KS_VALID and
KI; only ENCBLK and DECBLK write STATE, RND and DIR; each ERR bit is written only by the command and the cause of its row of
R240, and then only set (10_state.md R21, R26, R30; 60 R240). That KI, RND and DIR keep their values across the other commands
is the model's reading (log 16). -/
def Obligations.CommandsWriteOnlyTheirState : Prop :=
  ∀ (i : Instr) (s t : State), exec i s = .next t →
    t.cmdIn = s.cmdIn ∧ t.resetIn = s.resetIn ∧
    ((∀ key, i ≠ .loadkey key) → t.w = s.w ∧ t.ksValid = s.ksValid ∧ t.ki = s.ki) ∧
    ((∀ b, i ≠ .encblk b ∧ i ≠ .decblk b) → t.block = s.block ∧ t.rnd = s.rnd ∧ t.dir = s.dir) ∧
    t.errInvalidKey = (s.errInvalidKey || decide (ownStatus s i = .invalidKey)) ∧
    t.errUnsupportedOp = (s.errUnsupportedOp || decide (ownStatus s i = .unsupportedOperation)) ∧
    t.errKeyNotReady = (s.errKeyNotReady || decide (ownStatus s i = .keyNotReady)) ∧
    t.errIllegalCmd = s.errIllegalCmd

/-! ## STATUS and RDRK (44_system_commands.md) -/

/-- STATUS answers the STATUS register bit by bit, bits 7:5 zero, and writes nothing (R210, 10_state.md R30); a step does so on
a halted core as well. -/
def Obligations.StatusAnswersRegister : Prop :=
  ∀ s : State, ∃ v : Byte,
    exec .status s = .next { s with rspOut := s.rspOut ++ [[0x00#8, v]] } ∧
    v.getLsbD 0 = s.ksValid ∧ v.getLsbD 1 = s.errInvalidKey ∧ v.getLsbD 2 = s.errUnsupportedOp ∧
    v.getLsbD 3 = s.errKeyNotReady ∧ v.getLsbD 4 = s.errIllegalCmd ∧
    v.getLsbD 5 = false ∧ v.getLsbD 6 = false ∧ v.getLsbD 7 = false ∧
    (∀ rest, s.Takes [0x08#8] rest →
      step s = .next { s with cmdIn := rest, rspOut := s.rspOut ++ [[0x00#8, v]] })

/-- RDRK answers the word, bits 31:24 first, and writes nothing (R211, 20_memory.md R54). -/
def Obligations.RdrkAnswersWord : Prop :=
  ∀ (i : Fin 44) (v : Word) (s : State), s.ksValid = true → s.w.get i = some v →
    exec (.rdrk i) s = .next { s with rspOut := s.rspOut ++
      [[0x00#8, v.extractLsb' 24 8, v.extractLsb' 16 8, v.extractLsb' 8 8, v.extractLsb' 0 8]] }

/-- R244: without a schedule ENCBLK, DECBLK and RDRK raise KeyNotReady, whatever the operand: the sticky bit, the status alone,
nothing else, and the core is no more halted than before. -/
def Obligations.NoScheduleRaisesKeyNotReady : Prop :=
  ∀ (i : Instr) (s : State), s.ksValid = false → ((∃ b, i = .encblk b) ∨ (∃ b, i = .decblk b) ∨ ∃ j, i = .rdrk j) →
    ∃ t, exec i s = .next t ∧ t = { s with errKeyNotReady := true, rspOut := s.rspOut ++ [[0x04#8]] } ∧
      t.halted = s.halted

/-! ## The field (40_field_arithmetic.md) -/

/-- R111: xtime is a shift left with the reduction when bit 7 was set; its corner cases; it is a bijection and linear. -/
def Obligations.XtimeShiftsAndReduces : Prop :=
  (∀ b : Byte, xtime b = if b.getLsbD 7 then (b <<< 1) ^^^ 0x1B#8 else b <<< 1) ∧
  xtime 0x00#8 = 0x00#8 ∧ xtime 0x7f#8 = 0xfe#8 ∧ xtime 0x80#8 = 0x1b#8 ∧ xtime 0xff#8 = 0xe5#8 ∧
  xtime 0x8d#8 = 0x01#8 ∧ xtime 0x57#8 = 0xae#8 ∧
  Function.Bijective xtime ∧ ∀ a b : Byte, xtime (a ^^^ b) = xtime a ^^^ xtime b

/-- R113 to R122: each constant's rule, built from the one before it, and the rule's two examples. -/
def Obligations.MultiplyByEachConstant : Prop :=
  (∀ s : Byte, mul 1 s = some s ∧ mul 2 s = some (xtime s) ∧ mul 3 s = some (xtime s ^^^ s) ∧
    mul 4 s = some (xtime (xtime s)) ∧ mul 8 s = (mul 4 s).map xtime ∧ mul 9 s = (mul 8 s).map (· ^^^ s) ∧
    mul 11 s = (mul 9 s).bind (fun x => (mul 2 s).map (x ^^^ ·)) ∧
    mul 12 s = (mul 8 s).bind (fun x => (mul 4 s).map (x ^^^ ·)) ∧
    mul 13 s = (mul 12 s).map (· ^^^ s) ∧
    mul 14 s = (mul 12 s).bind (fun x => (mul 2 s).map (x ^^^ ·))) ∧
  [1, 2, 3, 4, 8, 9, 11, 12, 13, 14].map (fun c => mul c 0x57#8) =
    [0x57, 0xae, 0xf9, 0x47, 0x8e, 0xd9, 0x77, 0xc9, 0x9e, 0x67].map some ∧
  [1, 2, 3, 4, 8, 9, 11, 12, 13, 14].map (fun c => mul c 0x80#8) =
    [0x80, 0x1b, 0x9b, 0x36, 0x6c, 0xec, 0xf7, 0x5a, 0xda, 0x41].map some

/-- R124 (a) to (e): multiplication by each supported constant is linear, fixes 0, sends 1 to the constant and is a bijection;
the four identities of the source. -/
def Obligations.MultiplicationIsLinearAndBijective : Prop :=
  (∀ c ∈ mulConstants, ∃ f : Byte → Byte, (∀ s, mul c s = some (f s)) ∧
    (∀ a b, f (a ^^^ b) = f a ^^^ f b) ∧ f 0 = 0 ∧ f 1 = c ∧ Function.Bijective f) ∧
  (∀ s : Byte, mul 1 s = some s ∧ mul 4 s = (mul 2 s).bind (mul 2) ∧ mul 9 s = (mul 8 s).map (· ^^^ s) ∧
    mul 14 s = (mul 12 s).bind (fun x => (mul 2 s).map (x ^^^ ·)))

/-- R125: multiplication by each supported constant is the product in GF(2^8) modulo x^8 + x^4 + x^3 + x + 1, the XOR over the
set bits of the constant of repeated xtime. -/
def Obligations.MultiplicationIsFieldProduct : Prop :=
  ∀ c ∈ mulConstants, ∀ s : Byte, mul c s = some (fieldProduct c s)

/-- GFMUL with a supported constant answers the field product and writes nothing, key or no key (R123, R125). -/
def Obligations.GfmulAnswersProduct : Prop :=
  ∀ (c x : Byte) (s : State), c ∈ mulConstants →
    exec (.gfmul c x) s = .next { s with rspOut := s.rspOut ++ [[0x00#8, fieldProduct c x]] }

/-- R242: an unsupported constant raises UnsupportedOperation, which halts the core; W and KS_VALID keep their values; nothing
else raises it. -/
def Obligations.UnsupportedConstantHalts : Prop :=
  (∀ (c x : Byte) (s : State), c ∉ mulConstants → ∃ t, exec (.gfmul c x) s = .next t ∧
    t = { s with errUnsupportedOp := true, rspOut := s.rspOut ++ [[0x02#8]] } ∧ t.halted = true) ∧
  (∀ (i : Instr) (s t : State), exec i s = .next t → s.errUnsupportedOp = false → t.errUnsupportedOp = true →
    ∃ c x, i = .gfmul c x ∧ c ∉ mulConstants)

/-! ## The substitution tables (41_substitution_tables.md) -/

/-- R144: SBOX answers the table entry and writes nothing; the rule's corner cases and example. -/
def Obligations.SboxAnswersEntry : Prop :=
  (∀ (b : Byte) (s : State), exec (.sbox b) s = .next { s with rspOut := s.rspOut ++ [[0x00#8, sbox b]] }) ∧
  sbox 0x00#8 = 0x63#8 ∧ sbox 0x52#8 = 0x00#8 ∧ sbox 0xff#8 = 0x16#8 ∧ sbox 0x53#8 = 0xed#8

/-- R145: ISBOX answers the inverse table's entry and writes nothing; the rule's corner cases and example. -/
def Obligations.IsboxAnswersEntry : Prop :=
  (∀ (b : Byte) (s : State), exec (.isbox b) s = .next { s with rspOut := s.rspOut ++ [[0x00#8, isbox b]] }) ∧
  isbox 0x63#8 = 0x00#8 ∧ isbox 0x00#8 = 0x52#8 ∧ isbox 0x16#8 = 0xff#8 ∧ isbox 0xed#8 = 0x53#8

/-- R142: SBOX takes each of the 256 values exactly once, ISBOX is its exact inverse both ways, and SBOX has no fixed point. -/
def Obligations.TablesAreInverse : Prop :=
  Function.Bijective sbox ∧ ∀ b : Byte, isbox (sbox b) = b ∧ sbox (isbox b) = b ∧ sbox b ≠ b

/-- R143: every SBOX entry is the affine transform of the multiplicative inverse of its index, by the full field product. -/
def Obligations.SboxIsAffineOfInverse : Prop :=
  ∀ b : Byte, ∃ v : Byte, (if b = 0 then v = 0 else fieldProduct b v = 1) ∧
    (∀ u : Byte, (if b = 0 then u = 0 else fieldProduct b u = 1) → u = v) ∧
    ∀ i : Fin 8, (sbox b).getLsbD i.val =
      (((((v.getLsbD i.val ^^ v.getLsbD ((i.val + 4) % 8)) ^^ v.getLsbD ((i.val + 5) % 8)) ^^
        v.getLsbD ((i.val + 6) % 8)) ^^ v.getLsbD ((i.val + 7) % 8)) ^^ (0x63#8).getLsbD i.val)

/-! ## The key schedule (42_key_schedule.md) -/

/-- R153, R154, R155: RotWord, SubWord and the round constants, with the rules' examples and corner cases. -/
def Obligations.KeyScheduleMicroOperations : Prop :=
  (∀ a b c d : Byte, rotWord (word a b c d) = word b c d a) ∧
  (∀ w : Word, rotWord w = (w <<< 8) ||| (w >>> 24)) ∧
  rotWord 0x0c0d0e0f#32 = 0x0d0e0f0c#32 ∧
  (∀ a b c d : Byte, subWord (word a b c d) = word (sbox a) (sbox b) (sbox c) (sbox d)) ∧
  subWord 0x0d0e0f0c#32 = 0xd7ab76fe#32 ∧ subWord 0x00000000#32 = 0x63636363#32 ∧
  rcon 0 = 0x01#8 ∧ (∀ k : Fin 9, rcon k.succ = xtime (rcon k.castSucc)) ∧
  rcon 7 = 0x80#8 ∧ rcon 8 = 0x1b#8 ∧ rcon 9 = 0x36#8

/-- LOADKEY with a 16-byte key completes: W becomes the key's schedule by R152, R156 and R157, KS_VALID is set, the response is
OK alone, and nothing else but KI is written (R158). -/
def Obligations.LoadkeyBuildsSchedule : Prop :=
  ∀ (key : List Byte) (h : key.length = 16) (s : State),
    ∃ w ws k n, (∀ i : Fin 44, w.get i = some (ws.get i)) ∧ ScheduleOf (blockOfList key h) ws ∧
      exec (.loadkey key) s = .next { s with
        w := w, ksValid := true, ki := k, freeIdx := n, rspOut := s.rspOut ++ [[0x00#8]] }

/-- LOADKEY with a key of any other length raises InvalidKey (R151): the old schedule is gone (R158, 60 R241), the core is
halted, and nothing else is written (60 R240, R250). That KI keeps its value as well is the model's reading (log 16): R158 lists
KI among LOADKEY's writes, and R159 exempts it. -/
def Obligations.WrongKeyLengthHalts : Prop :=
  ∀ (key : List Byte) (s : State), key.length ≠ 16 →
    ∃ w t, (∀ i : Fin 44, w.get i = none) ∧ exec (.loadkey key) s = .next t ∧
      t = { s with w := w, ksValid := false, errInvalidKey := true, rspOut := s.rspOut ++ [[0x01#8]] } ∧
      t.halted = true

/-- R159: LOADKEY changes nothing but W, KS_VALID, KI and, on error, ERR.INVALID_KEY (the response aside); the W a successful
LOADKEY leaves depends on the key alone, and different keys give different schedules. -/
def Obligations.ScheduleDependsOnKeyAlone : Prop :=
  (∀ (key : List Byte) (s t : State), exec (.loadkey key) s = .next t →
    t.block = s.block ∧ t.errUnsupportedOp = s.errUnsupportedOp ∧ t.errKeyNotReady = s.errKeyNotReady ∧
    t.errIllegalCmd = s.errIllegalCmd ∧ t.rnd = s.rnd ∧ t.dir = s.dir ∧ t.cmdIn = s.cmdIn ∧ t.resetIn = s.resetIn ∧
    (key.length = 16 → t.errInvalidKey = s.errInvalidKey)) ∧
  (∀ (k₁ k₂ : List Byte) (s₁ s₂ t₁ t₂ : State), k₁.length = 16 → k₂.length = 16 →
    exec (.loadkey k₁) s₁ = .next t₁ → exec (.loadkey k₂) s₂ = .next t₂ → (t₁.w = t₂.w ↔ k₁ = k₂))

/-- Words of the known-answer key's schedule (R152 to R157, examples; 95_test_vectors.md section 2.3). -/
def Obligations.KnownKeyScheduleWords : Prop :=
  ∃ t, exec (.loadkey [0, 1, 2, 3, 4, 5, 6, 7, 8, 9, 10, 11, 12, 13, 14, 15]) State.reset = .next t ∧
    t.w.get 3 = some 0x0c0d0e0f#32 ∧ t.w.get 4 = some 0xd6aa74fd#32 ∧ t.w.get 5 = some 0xd2af72fa#32 ∧
    t.w.get 36 = some 0x549932d1#32 ∧ t.w.get 43 = some 0x4d2b30c5#32

/-! ## The block transform (43_block_transform.md) -/

/-- Loading, storing and the round-key view: block byte i is `s[i mod 4, i div 4]` both ways (20_memory.md R51, 43 R171, R172),
and byte r of word 4k+c meets `s[r,c]` (R53, 10_state.md R25). -/
def Obligations.BlockAndRoundKeyMapping : Prop :=
  (∀ (b : Block) (i : Fin 16), cell (matrixOfBlock b) ⟨i.val % 4, by omega⟩ ⟨i.val / 4, by omega⟩ = b.get i) ∧
  (∀ (m : StateMatrix) (i : Fin 16), (blockOfMatrix m).get i = cell m ⟨i.val % 4, by omega⟩ ⟨i.val / 4, by omega⟩) ∧
  (∀ (ws : Vector Word 44) (k : Fin 11) (r c : Fin 4),
    cell (roundKey ws k) r c = byteOf (ws.get ⟨4 * k.val + c.val, by omega⟩) r)

/-- R175, R178: ShiftRows rotates row r left by r and moves block bytes as stated; InvShiftRows rotates right and is its
inverse. -/
def Obligations.ShiftRowsRotatesRows : Prop :=
  (∀ (m : StateMatrix) (r c : Fin 4), cell (shiftRows m) r c = cell m r ⟨(c.val + r.val) % 4, by omega⟩) ∧
  (∀ (b : Block) (i : Fin 16), (blockOfMatrix (shiftRows (matrixOfBlock b))).get i =
    b.get ⟨(i.val + 4 * (i.val % 4)) % 16, by omega⟩) ∧
  (∀ (m : StateMatrix) (r c : Fin 4), cell (invShiftRows m) r c = cell m r ⟨(c.val + 4 - r.val) % 4, by omega⟩) ∧
  (∀ m : StateMatrix, invShiftRows (shiftRows m) = m ∧ shiftRows (invShiftRows m) = m)

/-- R173, R174, R177: AddRoundKey XORs byte r of word 4k+c into `s[r,c]` and is its own inverse; SubBytes and InvSubBytes look
every byte up and undo each other. -/
def Obligations.KeyAdditionAndSubstitutionUndo : Prop :=
  (∀ (ws : Vector Word 44) (k : Fin 11) (m : StateMatrix) (r c : Fin 4),
    cell (addKey (roundKey ws k) m) r c = cell m r c ^^^ byteOf (ws.get ⟨4 * k.val + c.val, by omega⟩) r) ∧
  (∀ rk m : StateMatrix, addKey rk (addKey rk m) = m) ∧
  (∀ (m : StateMatrix) (r c : Fin 4), cell (subBytes m) r c = sbox (cell m r c) ∧
    cell (invSubBytes m) r c = isbox (cell m r c)) ∧
  (∀ m : StateMatrix, invSubBytes (subBytes m) = m ∧ subBytes (invSubBytes m) = m)

/-- R176: MixColumns multiplies each column by the circulant matrix whose row r is `[2,3,1,1]` rotated right r places, over
GF(2^8); a column of four equal bytes is unchanged; the rule's examples. -/
def Obligations.MixColumnsIsCirculant : Prop :=
  (∀ (m : StateMatrix) (r c : Fin 4), cell (mixColumns m) r c =
    fieldProduct (mixRow0.get (0 - r)) (cell m 0 c) ^^^ fieldProduct (mixRow0.get (1 - r)) (cell m 1 c) ^^^
    fieldProduct (mixRow0.get (2 - r)) (cell m 2 c) ^^^ fieldProduct (mixRow0.get (3 - r)) (cell m 3 c)) ∧
  (∀ a : Byte, mixColumn ⟨a, a, a, a⟩ = ⟨a, a, a, a⟩) ∧
  mixColumn ⟨0xdb, 0x13, 0x53, 0x45⟩ = ⟨0x8e, 0x4d, 0xa1, 0xbc⟩ ∧
  mixColumn ⟨0xd4, 0xbf, 0x5d, 0x30⟩ = ⟨0x04, 0x66, 0x81, 0xe5⟩

/-- R179: InvMixColumns multiplies each column by the circulant matrix of `[14,11,13,9]` and undoes MixColumns for every state;
the rule's example. -/
def Obligations.InvMixColumnsUndoesMixColumns : Prop :=
  (∀ (m : StateMatrix) (r c : Fin 4), cell (invMixColumns m) r c =
    fieldProduct (invMixRow0.get (0 - r)) (cell m 0 c) ^^^ fieldProduct (invMixRow0.get (1 - r)) (cell m 1 c) ^^^
    fieldProduct (invMixRow0.get (2 - r)) (cell m 2 c) ^^^ fieldProduct (invMixRow0.get (3 - r)) (cell m 3 c)) ∧
  (∀ m : StateMatrix, invMixColumns (mixColumns m) = m ∧ mixColumns (invMixColumns m) = m) ∧
  invMixColumn ⟨0x8e, 0x4d, 0xa1, 0xbc⟩ = ⟨0xdb, 0x13, 0x53, 0x45⟩

/-- R184, R185, R186: each decryption round undoes the encryption round of the same number, and is undone by it, for every W. -/
def Obligations.RoundsUndoEachOther : Prop :=
  ∀ (ws : Vector Word 44) (k : Fin 11) (m : StateMatrix),
    decRoundOn ws k (encRoundOn ws k m) = m ∧ encRoundOn ws k (decRoundOn ws k m) = m

/-- ENCBLK with a schedule completes: the response is OK and the block that `encryptBlock` (R180 to R183) computes from W and
the payload; STATE is void again; W, KS_VALID and the ERR bits are unchanged (R188). That KI keeps its value is the model's
reading (log 16). -/
def Obligations.EncblkAnswersCiphertext : Prop :=
  ∀ (b : Block) (ws : Vector Word 44) (s : State), s.ksValid = true → s.Holds ws →
    ∃ r d n, exec (.encblk b) s = .next { s with
      block := none, rnd := r, dir := d, freeIdx := n,
      rspOut := s.rspOut ++ [0x00#8 :: (encryptBlock ws b).toList] }

/-- DECBLK with a schedule completes: the response is OK and the block that `decryptBlock` (R184 to R187) computes; the frame as
for ENCBLK (R189). -/
def Obligations.DecblkAnswersPlaintext : Prop :=
  ∀ (b : Block) (ws : Vector Word 44) (s : State), s.ksValid = true → s.Holds ws →
    ∃ r d n, exec (.decblk b) s = .next { s with
      block := none, rnd := r, dir := d, freeIdx := n,
      rspOut := s.rspOut ++ [0x00#8 :: (decryptBlock ws b).toList] }

/-- R190: decryption undoes encryption and encryption undoes decryption, for every W and every block. -/
def Obligations.DecryptInvertsEncrypt : Prop :=
  ∀ (ws : Vector Word 44) (b : Block),
    decryptBlock ws (encryptBlock ws b) = b ∧ encryptBlock ws (decryptBlock ws b) = b

/-- R190 at the core: in every state that meets the invariant and has a schedule, sending the 16 bytes ENCBLK answered as a
DECBLK gives the original block back. -/
def Obligations.CoreDecryptsItsCiphertext : Prop :=
  ∀ (s : State) (b : Block), Inv s → s.ksValid = true →
    ∃ t u c, ∃ h : c.length = 16, exec (.encblk b) s = .next t ∧ t.rspOut = s.rspOut ++ [0x00#8 :: c] ∧
      exec (.decblk (blockOfList c h)) t = .next u ∧ u.rspOut = t.rspOut ++ [0x00#8 :: b.toList]

/-- R194: InvShiftRows and InvSubBytes commute, and decryption with the round boundaries drawn elsewhere is the same function. -/
def Obligations.DecryptionRegrouped : Prop :=
  (∀ m : StateMatrix, invShiftRows (invSubBytes m) = invSubBytes (invShiftRows m)) ∧
  ∀ (ws : Vector Word 44) (b : Block), decryptBlock ws b = blockOfMatrix
    (addKey (roundKey ws 0) (invSubBytes (invShiftRows
      (([9, 8, 7, 6, 5, 4, 3, 2, 1] : List (Fin 11)).foldl
        (fun m k => invMixColumns (addKey (roundKey ws k) (invSubBytes (invShiftRows m))))
        (addKey (roundKey ws 10) (matrixOfBlock b))))))

/-- The answer to a block command depends on the payload and W only: no chaining, no feedback, no memory of earlier blocks
(R199, 20_memory.md R67). -/
def Obligations.BlockAnswerDependsOnKeyAndBlock : Prop :=
  ∀ (b : Block) (s₁ s₂ t₁ t₂ : State), s₁.w = s₂.w → s₁.ksValid = s₂.ksValid →
    ((exec (.encblk b) s₁ = .next t₁ ∧ exec (.encblk b) s₂ = .next t₂) ∨
     (exec (.decblk b) s₁ = .next t₁ ∧ exec (.decblk b) s₂ = .next t₂)) →
    ∃ q, t₁.rspOut = s₁.rspOut ++ [q] ∧ t₂.rspOut = s₂.rspOut ++ [q]

/-- The source's known-answer vector, both ways (95_test_vectors.md S2; R183, R187 examples). -/
def Obligations.KnownAnswerVector : Prop :=
  ∀ ws : Vector Word 44, ScheduleOf #v[0, 1, 2, 3, 4, 5, 6, 7, 8, 9, 10, 11, 12, 13, 14, 15] ws →
    encryptBlock ws #v[0x00, 0x11, 0x22, 0x33, 0x44, 0x55, 0x66, 0x77, 0x88, 0x99, 0xaa, 0xbb, 0xcc, 0xdd, 0xee, 0xff] =
      #v[0x69, 0xc4, 0xe0, 0xd8, 0x6a, 0x7b, 0x04, 0x30, 0xd8, 0xcd, 0xb7, 0x80, 0x70, 0xb4, 0xc5, 0x5a] ∧
    decryptBlock ws #v[0x69, 0xc4, 0xe0, 0xd8, 0x6a, 0x7b, 0x04, 0x30, 0xd8, 0xcd, 0xb7, 0x80, 0x70, 0xb4, 0xc5, 0x5a] =
      #v[0x00, 0x11, 0x22, 0x33, 0x44, 0x55, 0x66, 0x77, 0x88, 0x99, 0xaa, 0xbb, 0xcc, 0xdd, 0xee, 0xff]

/-! ## The host-side driver (45_buffer_driver.md) -/

/-- R221: pad adds between 1 and 16 zero bytes, a whole block of them when the length is already a multiple of 16. -/
def Obligations.PadAddsOneToSixteenZeros : Prop :=
  ∀ l : List Byte, pad l = l ++ List.replicate (16 - l.length % 16) 0x00#8 ∧
    1 ≤ 16 - l.length % 16 ∧ 16 - l.length % 16 ≤ 16 ∧
    (pad l).length = (l.length / 16 + 1) * 16 ∧ (l.length % 16 = 0 → (pad l).length = l.length + 16)

/-- ENCRYPT on a core ready to serve answers the concatenation, in block order, of the encryptions of the 16-byte pieces of the
padded buffer, of the length R222 gives, and leaves the core ready with the same schedule (R222, R227). How the driver pairs
a response with its frame is the model's (log 13). -/
def Obligations.EncryptBufferIsBlockwise : Prop :=
  ∀ (p : Params) (plain : List Byte) (ws : Vector Word 44) (s : State), p.Wf → s.Serving ws →
    ∃ t out, encryptBuffer p plain s = .next (t, .ok out) ∧ t.Serving ws ∧ t.rspOut = s.rspOut ∧ SameErrors s t ∧
      out.length = (plain.length / 16 + 1) * 16 ∧
      ∀ j : Fin (plain.length / 16 + 1), ∃ h : (((pad plain).drop (16 * j.val)).take 16).length = 16,
        (out.drop (16 * j.val)).take 16 =
          (encryptBlock ws (blockOfList (((pad plain).drop (16 * j.val)).take 16) h)).toList

/-- R224: DECRYPT of a buffer whose length is not a multiple of 16 is MalformedCiphertext; no frame is sent and the core's
state is unchanged. -/
def Obligations.MalformedCiphertextSendsNothing : Prop :=
  ∀ (p : Params) (cipher : List Byte) (s : State), cipher.length % 16 ≠ 0 →
    decryptBuffer p cipher s = .next (s, .error .malformedCiphertext)

/-- R229: DECRYPT of the empty buffer has no meaning; it is refused by name. -/
def Obligations.EmptyDecryptIsRefused : Prop :=
  ∀ (p : Params) (s : State), decryptBuffer p [] s = .refused .decryptEmptyBuffer

/-- R225: for every buffer, DECRYPT of what ENCRYPT answered is the padded buffer, with the same schedule in the core; nothing is
stripped. -/
def Obligations.DecryptOfEncryptIsPadded : Prop :=
  ∀ (p : Params) (plain : List Byte) (ws : Vector Word 44) (s : State), p.Wf → s.Serving ws →
    ∃ t u out, encryptBuffer p plain s = .next (t, .ok out) ∧ decryptBuffer p out t = .next (u, .ok (pad plain)) ∧
      u.Serving ws

/-- The driver's first `encrypt` sends its LOADKEY before any block command: on every core that waits and is not halted, with any
schedule or none in it, it answers the block-by-block encryption of the padded buffer under the schedule of the manager's own
key, which it leaves in the core (R220, R222, 70 R284). How the driver pairs a response with its frame is the model's (log 13). -/
def Obligations.FirstUseLoadsManagersKey : Prop :=
  ∀ (p : Params) (plain : List Byte) (key : Block) (s : State), p.Wf → s.Ready →
    ∃ t ws out, CipherManager.encrypt p plain (.new key) s = .next (⟨key, .created⟩, t, .ok out) ∧
      ScheduleOf key ws ∧ t.Serving ws ∧ t.rspOut = s.rspOut ∧ SameErrors s t ∧
      out.length = (plain.length / 16 + 1) * 16 ∧
      ∀ j : Fin (plain.length / 16 + 1), ∃ h : (((pad plain).drop (16 * j.val)).take 16).length = 16,
        (out.drop (16 * j.val)).take 16 =
          (encryptBlock ws (blockOfList (((pad plain).drop (16 * j.val)).take 16) h)).toList

/-- LOADKEY is sent once and not again (R220, 70 R287): the first `encrypt` uses the manager's one LOADKEY up, whatever comes of it,
and a manager that has used it keeps its state and leaves the W and KS_VALID of a waiting core as they are, whatever the core
holds. That a LOADKEY which failed is not repeated either is the model's choice (log 17). -/
def Obligations.LoadkeyIsNotSentAgain : Prop :=
  (∀ (p : Params) (buffer : List Byte) (m n : CipherManager) (s t : State) (r : Except DriverError (List Byte)),
    CipherManager.encrypt p buffer m s = .next (n, t, r) → n.schedule ≠ .absent ∧ n.key = m.key) ∧
  (∀ (p : Params) (buffer : List Byte) (m n : CipherManager) (s t : State) (r : Except DriverError (List Byte)),
    m.schedule ≠ .absent → s.resetIn = false → s.cmdIn = [] →
    (CipherManager.encrypt p buffer m s = .next (n, t, r) ∨ CipherManager.decrypt p buffer m s = .next (n, t, r)) →
    n = m ∧ t.w = s.w ∧ t.ksValid = s.ksValid)

/-- No block command before LOADKEY's OK (R220, R222, R228): whatever the parameters and the core, if the first LOADKEY of a new
manager ends in an error then `encrypt` and `decrypt` end with that error and the core as that LOADKEY left it. On a halted core
that error is the status Halted and the core is unchanged (60 R246). A `decrypt` of a malformed length sends not even the LOADKEY
(R224). That the manager remembers the failure is the model's choice (log 17). -/
def Obligations.DriverStopsBeforeFirstBlock : Prop :=
  (∀ (p : Params) (buffer : List Byte) (key : Block) (s t : State) (e : DriverError),
    loadKey p key s = .next (t, .error e) →
    CipherManager.encrypt p buffer (.new key) s = .next (⟨key, .failed e⟩, t, .error e) ∧
    (buffer.length % 16 = 0 → buffer ≠ [] →
      CipherManager.decrypt p buffer (.new key) s = .next (⟨key, .failed e⟩, t, .error e))) ∧
  (∀ (p : Params) (buffer : List Byte) (key : Block) (s : State), p.Wf → s.resetIn = false → s.cmdIn = [] → s.halted = true →
    CipherManager.encrypt p buffer (.new key) s =
      .next (⟨key, .failed (.coreStatus 0x06#8)⟩, s, .error (.coreStatus 0x06#8)) ∧
    (buffer.length % 16 = 0 → buffer ≠ [] → CipherManager.decrypt p buffer (.new key) s =
      .next (⟨key, .failed (.coreStatus 0x06#8)⟩, s, .error (.coreStatus 0x06#8)))) ∧
  (∀ (p : Params) (cipher : List Byte) (m : CipherManager) (s : State), cipher.length % 16 ≠ 0 →
    CipherManager.decrypt p cipher m s = .next (m, s, .error .malformedCiphertext))

/-- The round trip of the driver from its first use on: one manager encrypts and decrypts with the one schedule it created, and also
decrypts first where the output came from another manager of the same key (R220, R225). -/
def Obligations.ManagerRoundTrip : Prop :=
  ∀ (p : Params) (plain : List Byte) (key : Block) (s : State), p.Wf → s.Ready →
    ∃ t out, CipherManager.encrypt p plain (.new key) s = .next (⟨key, .created⟩, t, .ok out) ∧
      (∃ u, CipherManager.decrypt p out ⟨key, .created⟩ t = .next (⟨key, .created⟩, u, .ok (pad plain))) ∧
      ∀ s' : State, s'.Ready →
        ∃ u, CipherManager.decrypt p out (.new key) s' = .next (⟨key, .created⟩, u, .ok (pad plain))
end

