-- ==== Sys2Proof/Laws/Operands.lean ====
section
/-!
SUPPORT. Words and their bytes, and the block-to-state mapping: each way of putting together undoes the taking apart.
-/

namespace Sys2Proof.Machine

/-- The bits of a word made of four bytes (00_scope.md R10). -/
theorem getLsbD_word (a b c d : Byte) (i : Nat) : (word a b c d).getLsbD i =
    if i < 8 then d.getLsbD i else if i < 16 then c.getLsbD (i - 8)
    else if i < 24 then b.getLsbD (i - 16) else a.getLsbD (i - 24) := by
  change BitVec.getLsbD (w := 8 + 8 + 8 + 8) (a ++ b ++ c ++ d) i = _
  rw [BitVec.getLsbD_append, BitVec.getLsbD_append, BitVec.getLsbD_append]
  rw [show i - 8 - 8 = i - 16 by omega, show i - 16 - 8 = i - 24 by omega]
  split_ifs <;> first | rfl | omega

/-- `byte_j` of a word made of four bytes (R10). -/
theorem byteOf_word (a b c d : Byte) (j : Fin 4) :
    byteOf (word a b c d) j = match j with | 0 => a | 1 => b | 2 => c | 3 => d := by
  fin_cases j <;> (unfold byteOf; ext i hi; simp [hi, getLsbD_word])
  all_goals (repeat' split)
  all_goals first | omega | simp

@[simp] theorem byteOf_word_0 (a b c d : Byte) : byteOf (word a b c d) 0 = a := byteOf_word a b c d 0
@[simp] theorem byteOf_word_1 (a b c d : Byte) : byteOf (word a b c d) 1 = b := byteOf_word a b c d 1
@[simp] theorem byteOf_word_2 (a b c d : Byte) : byteOf (word a b c d) 2 = c := byteOf_word a b c d 2
@[simp] theorem byteOf_word_3 (a b c d : Byte) : byteOf (word a b c d) 3 = d := byteOf_word a b c d 3

@[simp] theorem rowOf_columnFrom (f : Fin 4 → Byte) (r : Fin 4) : rowOf (columnFrom f) r = f r := by
  fin_cases r <;> rfl

/-- Reading a cell after a parallel assignment. -/
@[simp] theorem cell_matrixFrom (f : Fin 4 → Fin 4 → Byte) (r c : Fin 4) : cell (matrixFrom f) r c = f r c := by
  fin_cases c <;> fin_cases r <;> rfl

/-- Two state matrices with the same 16 cells are the same. -/
theorem matrix_ext {m n : StateMatrix} (h : ∀ r c, cell m r c = cell n r c) : m = n := by
  obtain ⟨⟨a00, a10, a20, a30⟩, ⟨a01, a11, a21, a31⟩, ⟨a02, a12, a22, a32⟩, ⟨a03, a13, a23, a33⟩⟩ := m
  obtain ⟨⟨b00, b10, b20, b30⟩, ⟨b01, b11, b21, b31⟩, ⟨b02, b12, b22, b32⟩, ⟨b03, b13, b23, b33⟩⟩ := n
  have e00 := h 0 0; have e10 := h 1 0; have e20 := h 2 0; have e30 := h 3 0
  have e01 := h 0 1; have e11 := h 1 1; have e21 := h 2 1; have e31 := h 3 1
  have e02 := h 0 2; have e12 := h 1 2; have e22 := h 2 2; have e32 := h 3 2
  have e03 := h 0 3; have e13 := h 1 3; have e23 := h 2 3; have e33 := h 3 3
  simp only [cell, columnOf, rowOf] at *
  subst_vars
  rfl

/-- StoreState's mapping read at byte `i` (20_memory.md R51). -/
theorem blockOfMatrix_get (m : StateMatrix) (i : Fin 16) :
    (blockOfMatrix m).get i = cell m ⟨i.val % 4, by omega⟩ ⟨i.val / 4, by omega⟩ := by
  fin_cases i <;> rfl

/-- LoadState undoes StoreState's mapping. -/
@[simp] theorem matrixOfBlock_blockOfMatrix (m : StateMatrix) : matrixOfBlock (blockOfMatrix m) = m := by
  apply matrix_ext
  intro r c
  fin_cases c <;> fin_cases r <;> rfl

/-- StoreState undoes LoadState's mapping. -/
@[simp] theorem blockOfMatrix_matrixOfBlock (b : Block) : blockOfMatrix (matrixOfBlock b) = b := by
  apply Vector.ext
  intro i hi
  have h := blockOfMatrix_get (matrixOfBlock b) ⟨i, hi⟩
  rw [Vector.get_eq_getElem] at h
  simp only [matrixOfBlock, cell_matrixFrom, Vector.get_eq_getElem] at h
  rw [show blockOfMatrix (matrixOfBlock b) = blockOfMatrix (matrixFrom fun r c => b.get ⟨r.val + 4 * c.val, by omega⟩) from rfl]
  simp only [Vector.get_eq_getElem]
  rw [h]
  congr 1
  omega

end Sys2Proof.Machine
end

