-- ==== Sys2Proof/Laws/State.lean ====
section
/-!
SUPPORT. What each named update of the state leaves in each field: one lemma per field per update.
-/

namespace Sys2Proof.Machine

@[simp] theorem State.writeW_block (s : State) (i : Fin 44) (v : Word) : (s.writeW i v).block = s.block := rfl
@[simp] theorem State.writeW_w (s : State) (i : Fin 44) (v : Word) : (s.writeW i v).w = s.w.set i.val (some v) i.isLt := rfl
@[simp] theorem State.writeW_ksValid (s : State) (i : Fin 44) (v : Word) : (s.writeW i v).ksValid = s.ksValid := rfl
@[simp] theorem State.writeW_errInvalidKey (s : State) (i : Fin 44) (v : Word) : (s.writeW i v).errInvalidKey = s.errInvalidKey := rfl
@[simp] theorem State.writeW_errUnsupportedOp (s : State) (i : Fin 44) (v : Word) : (s.writeW i v).errUnsupportedOp = s.errUnsupportedOp := rfl
@[simp] theorem State.writeW_errKeyNotReady (s : State) (i : Fin 44) (v : Word) : (s.writeW i v).errKeyNotReady = s.errKeyNotReady := rfl
@[simp] theorem State.writeW_errIllegalCmd (s : State) (i : Fin 44) (v : Word) : (s.writeW i v).errIllegalCmd = s.errIllegalCmd := rfl
@[simp] theorem State.writeW_rnd (s : State) (i : Fin 44) (v : Word) : (s.writeW i v).rnd = s.rnd := rfl
@[simp] theorem State.writeW_ki (s : State) (i : Fin 44) (v : Word) : (s.writeW i v).ki = s.ki := rfl
@[simp] theorem State.writeW_dir (s : State) (i : Fin 44) (v : Word) : (s.writeW i v).dir = s.dir := rfl
@[simp] theorem State.writeW_cmdIn (s : State) (i : Fin 44) (v : Word) : (s.writeW i v).cmdIn = s.cmdIn := rfl
@[simp] theorem State.writeW_rspOut (s : State) (i : Fin 44) (v : Word) : (s.writeW i v).rspOut = s.rspOut := rfl
@[simp] theorem State.writeW_resetIn (s : State) (i : Fin 44) (v : Word) : (s.writeW i v).resetIn = s.resetIn := rfl
@[simp] theorem State.writeW_freeIdx (s : State) (i : Fin 44) (v : Word) : (s.writeW i v).freeIdx = s.freeIdx := rfl

@[simp] theorem State.dropSchedule_block (s : State) : (s.dropSchedule).block = s.block := rfl
@[simp] theorem State.dropSchedule_w (s : State) : (s.dropSchedule).w = noSchedule := rfl
@[simp] theorem State.dropSchedule_ksValid (s : State) : (s.dropSchedule).ksValid = false := rfl
@[simp] theorem State.dropSchedule_errInvalidKey (s : State) : (s.dropSchedule).errInvalidKey = s.errInvalidKey := rfl
@[simp] theorem State.dropSchedule_errUnsupportedOp (s : State) : (s.dropSchedule).errUnsupportedOp = s.errUnsupportedOp := rfl
@[simp] theorem State.dropSchedule_errKeyNotReady (s : State) : (s.dropSchedule).errKeyNotReady = s.errKeyNotReady := rfl
@[simp] theorem State.dropSchedule_errIllegalCmd (s : State) : (s.dropSchedule).errIllegalCmd = s.errIllegalCmd := rfl
@[simp] theorem State.dropSchedule_rnd (s : State) : (s.dropSchedule).rnd = s.rnd := rfl
@[simp] theorem State.dropSchedule_ki (s : State) : (s.dropSchedule).ki = s.ki := rfl
@[simp] theorem State.dropSchedule_dir (s : State) : (s.dropSchedule).dir = s.dir := rfl
@[simp] theorem State.dropSchedule_cmdIn (s : State) : (s.dropSchedule).cmdIn = s.cmdIn := rfl
@[simp] theorem State.dropSchedule_rspOut (s : State) : (s.dropSchedule).rspOut = s.rspOut := rfl
@[simp] theorem State.dropSchedule_resetIn (s : State) : (s.dropSchedule).resetIn = s.resetIn := rfl
@[simp] theorem State.dropSchedule_freeIdx (s : State) : (s.dropSchedule).freeIdx = s.freeIdx := rfl

@[simp] theorem State.writeBlock_block (s : State) (m : StateMatrix) : (s.writeBlock m).block = some m := rfl
@[simp] theorem State.writeBlock_w (s : State) (m : StateMatrix) : (s.writeBlock m).w = s.w := rfl
@[simp] theorem State.writeBlock_ksValid (s : State) (m : StateMatrix) : (s.writeBlock m).ksValid = s.ksValid := rfl
@[simp] theorem State.writeBlock_errInvalidKey (s : State) (m : StateMatrix) : (s.writeBlock m).errInvalidKey = s.errInvalidKey := rfl
@[simp] theorem State.writeBlock_errUnsupportedOp (s : State) (m : StateMatrix) : (s.writeBlock m).errUnsupportedOp = s.errUnsupportedOp := rfl
@[simp] theorem State.writeBlock_errKeyNotReady (s : State) (m : StateMatrix) : (s.writeBlock m).errKeyNotReady = s.errKeyNotReady := rfl
@[simp] theorem State.writeBlock_errIllegalCmd (s : State) (m : StateMatrix) : (s.writeBlock m).errIllegalCmd = s.errIllegalCmd := rfl
@[simp] theorem State.writeBlock_rnd (s : State) (m : StateMatrix) : (s.writeBlock m).rnd = s.rnd := rfl
@[simp] theorem State.writeBlock_ki (s : State) (m : StateMatrix) : (s.writeBlock m).ki = s.ki := rfl
@[simp] theorem State.writeBlock_dir (s : State) (m : StateMatrix) : (s.writeBlock m).dir = s.dir := rfl
@[simp] theorem State.writeBlock_cmdIn (s : State) (m : StateMatrix) : (s.writeBlock m).cmdIn = s.cmdIn := rfl
@[simp] theorem State.writeBlock_rspOut (s : State) (m : StateMatrix) : (s.writeBlock m).rspOut = s.rspOut := rfl
@[simp] theorem State.writeBlock_resetIn (s : State) (m : StateMatrix) : (s.writeBlock m).resetIn = s.resetIn := rfl
@[simp] theorem State.writeBlock_freeIdx (s : State) (m : StateMatrix) : (s.writeBlock m).freeIdx = s.freeIdx := rfl

@[simp] theorem State.loadState_block (s : State) (b : Block) : (s.loadState b).block = some (matrixOfBlock b) := rfl
@[simp] theorem State.loadState_w (s : State) (b : Block) : (s.loadState b).w = s.w := rfl
@[simp] theorem State.loadState_ksValid (s : State) (b : Block) : (s.loadState b).ksValid = s.ksValid := rfl
@[simp] theorem State.loadState_errInvalidKey (s : State) (b : Block) : (s.loadState b).errInvalidKey = s.errInvalidKey := rfl
@[simp] theorem State.loadState_errUnsupportedOp (s : State) (b : Block) : (s.loadState b).errUnsupportedOp = s.errUnsupportedOp := rfl
@[simp] theorem State.loadState_errKeyNotReady (s : State) (b : Block) : (s.loadState b).errKeyNotReady = s.errKeyNotReady := rfl
@[simp] theorem State.loadState_errIllegalCmd (s : State) (b : Block) : (s.loadState b).errIllegalCmd = s.errIllegalCmd := rfl
@[simp] theorem State.loadState_rnd (s : State) (b : Block) : (s.loadState b).rnd = s.rnd := rfl
@[simp] theorem State.loadState_ki (s : State) (b : Block) : (s.loadState b).ki = s.ki := rfl
@[simp] theorem State.loadState_dir (s : State) (b : Block) : (s.loadState b).dir = s.dir := rfl
@[simp] theorem State.loadState_cmdIn (s : State) (b : Block) : (s.loadState b).cmdIn = s.cmdIn := rfl
@[simp] theorem State.loadState_rspOut (s : State) (b : Block) : (s.loadState b).rspOut = s.rspOut := rfl
@[simp] theorem State.loadState_resetIn (s : State) (b : Block) : (s.loadState b).resetIn = s.resetIn := rfl
@[simp] theorem State.loadState_freeIdx (s : State) (b : Block) : (s.loadState b).freeIdx = s.freeIdx := rfl

@[simp] theorem State.respond_block (s : State) (c : StatusCode) (l : List Byte) : (s.respond c l).block = s.block := rfl
@[simp] theorem State.respond_w (s : State) (c : StatusCode) (l : List Byte) : (s.respond c l).w = s.w := rfl
@[simp] theorem State.respond_ksValid (s : State) (c : StatusCode) (l : List Byte) : (s.respond c l).ksValid = s.ksValid := rfl
@[simp] theorem State.respond_errInvalidKey (s : State) (c : StatusCode) (l : List Byte) : (s.respond c l).errInvalidKey = s.errInvalidKey := rfl
@[simp] theorem State.respond_errUnsupportedOp (s : State) (c : StatusCode) (l : List Byte) : (s.respond c l).errUnsupportedOp = s.errUnsupportedOp := rfl
@[simp] theorem State.respond_errKeyNotReady (s : State) (c : StatusCode) (l : List Byte) : (s.respond c l).errKeyNotReady = s.errKeyNotReady := rfl
@[simp] theorem State.respond_errIllegalCmd (s : State) (c : StatusCode) (l : List Byte) : (s.respond c l).errIllegalCmd = s.errIllegalCmd := rfl
@[simp] theorem State.respond_rnd (s : State) (c : StatusCode) (l : List Byte) : (s.respond c l).rnd = s.rnd := rfl
@[simp] theorem State.respond_ki (s : State) (c : StatusCode) (l : List Byte) : (s.respond c l).ki = s.ki := rfl
@[simp] theorem State.respond_dir (s : State) (c : StatusCode) (l : List Byte) : (s.respond c l).dir = s.dir := rfl
@[simp] theorem State.respond_cmdIn (s : State) (c : StatusCode) (l : List Byte) : (s.respond c l).cmdIn = s.cmdIn := rfl
@[simp] theorem State.respond_rspOut (s : State) (c : StatusCode) (l : List Byte) : (s.respond c l).rspOut = s.rspOut ++ [codeOf c :: l] := rfl
@[simp] theorem State.respond_resetIn (s : State) (c : StatusCode) (l : List Byte) : (s.respond c l).resetIn = s.resetIn := rfl
@[simp] theorem State.respond_freeIdx (s : State) (c : StatusCode) (l : List Byte) : (s.respond c l).freeIdx = s.freeIdx := rfl

@[simp] theorem State.setRnd_block (s : State) (k : Fin 11) : (s.setRnd k).block = s.block := rfl
@[simp] theorem State.setRnd_w (s : State) (k : Fin 11) : (s.setRnd k).w = s.w := rfl
@[simp] theorem State.setRnd_ksValid (s : State) (k : Fin 11) : (s.setRnd k).ksValid = s.ksValid := rfl
@[simp] theorem State.setRnd_errInvalidKey (s : State) (k : Fin 11) : (s.setRnd k).errInvalidKey = s.errInvalidKey := rfl
@[simp] theorem State.setRnd_errUnsupportedOp (s : State) (k : Fin 11) : (s.setRnd k).errUnsupportedOp = s.errUnsupportedOp := rfl
@[simp] theorem State.setRnd_errKeyNotReady (s : State) (k : Fin 11) : (s.setRnd k).errKeyNotReady = s.errKeyNotReady := rfl
@[simp] theorem State.setRnd_errIllegalCmd (s : State) (k : Fin 11) : (s.setRnd k).errIllegalCmd = s.errIllegalCmd := rfl
@[simp] theorem State.setRnd_rnd (s : State) (k : Fin 11) : (s.setRnd k).rnd = BitVec.ofNat 4 k.val := rfl
@[simp] theorem State.setRnd_ki (s : State) (k : Fin 11) : (s.setRnd k).ki = s.ki := rfl
@[simp] theorem State.setRnd_dir (s : State) (k : Fin 11) : (s.setRnd k).dir = s.dir := rfl
@[simp] theorem State.setRnd_cmdIn (s : State) (k : Fin 11) : (s.setRnd k).cmdIn = s.cmdIn := rfl
@[simp] theorem State.setRnd_rspOut (s : State) (k : Fin 11) : (s.setRnd k).rspOut = s.rspOut := rfl
@[simp] theorem State.setRnd_resetIn (s : State) (k : Fin 11) : (s.setRnd k).resetIn = s.resetIn := rfl
@[simp] theorem State.setRnd_freeIdx (s : State) (k : Fin 11) : (s.setRnd k).freeIdx = s.freeIdx := rfl

@[simp] theorem State.setKi_block (s : State) (i : Fin 44) : (s.setKi i).block = s.block := rfl
@[simp] theorem State.setKi_w (s : State) (i : Fin 44) : (s.setKi i).w = s.w := rfl
@[simp] theorem State.setKi_ksValid (s : State) (i : Fin 44) : (s.setKi i).ksValid = s.ksValid := rfl
@[simp] theorem State.setKi_errInvalidKey (s : State) (i : Fin 44) : (s.setKi i).errInvalidKey = s.errInvalidKey := rfl
@[simp] theorem State.setKi_errUnsupportedOp (s : State) (i : Fin 44) : (s.setKi i).errUnsupportedOp = s.errUnsupportedOp := rfl
@[simp] theorem State.setKi_errKeyNotReady (s : State) (i : Fin 44) : (s.setKi i).errKeyNotReady = s.errKeyNotReady := rfl
@[simp] theorem State.setKi_errIllegalCmd (s : State) (i : Fin 44) : (s.setKi i).errIllegalCmd = s.errIllegalCmd := rfl
@[simp] theorem State.setKi_rnd (s : State) (i : Fin 44) : (s.setKi i).rnd = s.rnd := rfl
@[simp] theorem State.setKi_ki (s : State) (i : Fin 44) : (s.setKi i).ki = BitVec.ofNat 6 i.val := rfl
@[simp] theorem State.setKi_dir (s : State) (i : Fin 44) : (s.setKi i).dir = s.dir := rfl
@[simp] theorem State.setKi_cmdIn (s : State) (i : Fin 44) : (s.setKi i).cmdIn = s.cmdIn := rfl
@[simp] theorem State.setKi_rspOut (s : State) (i : Fin 44) : (s.setKi i).rspOut = s.rspOut := rfl
@[simp] theorem State.setKi_resetIn (s : State) (i : Fin 44) : (s.setKi i).resetIn = s.resetIn := rfl
@[simp] theorem State.setKi_freeIdx (s : State) (i : Fin 44) : (s.setKi i).freeIdx = s.freeIdx := rfl

@[simp] theorem State.setDir_block (s : State) (d : Direction) : (s.setDir d).block = s.block := rfl
@[simp] theorem State.setDir_w (s : State) (d : Direction) : (s.setDir d).w = s.w := rfl
@[simp] theorem State.setDir_ksValid (s : State) (d : Direction) : (s.setDir d).ksValid = s.ksValid := rfl
@[simp] theorem State.setDir_errInvalidKey (s : State) (d : Direction) : (s.setDir d).errInvalidKey = s.errInvalidKey := rfl
@[simp] theorem State.setDir_errUnsupportedOp (s : State) (d : Direction) : (s.setDir d).errUnsupportedOp = s.errUnsupportedOp := rfl
@[simp] theorem State.setDir_errKeyNotReady (s : State) (d : Direction) : (s.setDir d).errKeyNotReady = s.errKeyNotReady := rfl
@[simp] theorem State.setDir_errIllegalCmd (s : State) (d : Direction) : (s.setDir d).errIllegalCmd = s.errIllegalCmd := rfl
@[simp] theorem State.setDir_rnd (s : State) (d : Direction) : (s.setDir d).rnd = s.rnd := rfl
@[simp] theorem State.setDir_ki (s : State) (d : Direction) : (s.setDir d).ki = s.ki := rfl
@[simp] theorem State.setDir_dir (s : State) (d : Direction) : (s.setDir d).dir = d := rfl
@[simp] theorem State.setDir_cmdIn (s : State) (d : Direction) : (s.setDir d).cmdIn = s.cmdIn := rfl
@[simp] theorem State.setDir_rspOut (s : State) (d : Direction) : (s.setDir d).rspOut = s.rspOut := rfl
@[simp] theorem State.setDir_resetIn (s : State) (d : Direction) : (s.setDir d).resetIn = s.resetIn := rfl
@[simp] theorem State.setDir_freeIdx (s : State) (d : Direction) : (s.setDir d).freeIdx = s.freeIdx := rfl

@[simp] theorem State.retireBlockSequencing_block (s : State) : (s.retireBlockSequencing).block = s.block := rfl
@[simp] theorem State.retireBlockSequencing_w (s : State) : (s.retireBlockSequencing).w = s.w := rfl
@[simp] theorem State.retireBlockSequencing_ksValid (s : State) : (s.retireBlockSequencing).ksValid = s.ksValid := rfl
@[simp] theorem State.retireBlockSequencing_errInvalidKey (s : State) : (s.retireBlockSequencing).errInvalidKey = s.errInvalidKey := rfl
@[simp] theorem State.retireBlockSequencing_errUnsupportedOp (s : State) : (s.retireBlockSequencing).errUnsupportedOp = s.errUnsupportedOp := rfl
@[simp] theorem State.retireBlockSequencing_errKeyNotReady (s : State) : (s.retireBlockSequencing).errKeyNotReady = s.errKeyNotReady := rfl
@[simp] theorem State.retireBlockSequencing_errIllegalCmd (s : State) : (s.retireBlockSequencing).errIllegalCmd = s.errIllegalCmd := rfl
@[simp] theorem State.retireBlockSequencing_rnd (s : State) : (s.retireBlockSequencing).rnd = Config.freeRnd s.freeIdx := rfl
@[simp] theorem State.retireBlockSequencing_ki (s : State) : (s.retireBlockSequencing).ki = s.ki := rfl
@[simp] theorem State.retireBlockSequencing_dir (s : State) : (s.retireBlockSequencing).dir = Config.freeDir s.freeIdx := rfl
@[simp] theorem State.retireBlockSequencing_cmdIn (s : State) : (s.retireBlockSequencing).cmdIn = s.cmdIn := rfl
@[simp] theorem State.retireBlockSequencing_rspOut (s : State) : (s.retireBlockSequencing).rspOut = s.rspOut := rfl
@[simp] theorem State.retireBlockSequencing_resetIn (s : State) : (s.retireBlockSequencing).resetIn = s.resetIn := rfl
@[simp] theorem State.retireBlockSequencing_freeIdx (s : State) : (s.retireBlockSequencing).freeIdx = s.freeIdx + 1 := rfl

@[simp] theorem State.retireKeySequencing_block (s : State) : (s.retireKeySequencing).block = s.block := rfl
@[simp] theorem State.retireKeySequencing_w (s : State) : (s.retireKeySequencing).w = s.w := rfl
@[simp] theorem State.retireKeySequencing_ksValid (s : State) : (s.retireKeySequencing).ksValid = s.ksValid := rfl
@[simp] theorem State.retireKeySequencing_errInvalidKey (s : State) : (s.retireKeySequencing).errInvalidKey = s.errInvalidKey := rfl
@[simp] theorem State.retireKeySequencing_errUnsupportedOp (s : State) : (s.retireKeySequencing).errUnsupportedOp = s.errUnsupportedOp := rfl
@[simp] theorem State.retireKeySequencing_errKeyNotReady (s : State) : (s.retireKeySequencing).errKeyNotReady = s.errKeyNotReady := rfl
@[simp] theorem State.retireKeySequencing_errIllegalCmd (s : State) : (s.retireKeySequencing).errIllegalCmd = s.errIllegalCmd := rfl
@[simp] theorem State.retireKeySequencing_rnd (s : State) : (s.retireKeySequencing).rnd = s.rnd := rfl
@[simp] theorem State.retireKeySequencing_ki (s : State) : (s.retireKeySequencing).ki = Config.freeKi s.freeIdx := rfl
@[simp] theorem State.retireKeySequencing_dir (s : State) : (s.retireKeySequencing).dir = s.dir := rfl
@[simp] theorem State.retireKeySequencing_cmdIn (s : State) : (s.retireKeySequencing).cmdIn = s.cmdIn := rfl
@[simp] theorem State.retireKeySequencing_rspOut (s : State) : (s.retireKeySequencing).rspOut = s.rspOut := rfl
@[simp] theorem State.retireKeySequencing_resetIn (s : State) : (s.retireKeySequencing).resetIn = s.resetIn := rfl
@[simp] theorem State.retireKeySequencing_freeIdx (s : State) : (s.retireKeySequencing).freeIdx = s.freeIdx + 1 := rfl

@[simp] theorem State.takeReset_block (s : State) : (s.takeReset).block = none := rfl
@[simp] theorem State.takeReset_w (s : State) : (s.takeReset).w = noSchedule := rfl
@[simp] theorem State.takeReset_ksValid (s : State) : (s.takeReset).ksValid = false := rfl
@[simp] theorem State.takeReset_errInvalidKey (s : State) : (s.takeReset).errInvalidKey = false := rfl
@[simp] theorem State.takeReset_errUnsupportedOp (s : State) : (s.takeReset).errUnsupportedOp = false := rfl
@[simp] theorem State.takeReset_errKeyNotReady (s : State) : (s.takeReset).errKeyNotReady = false := rfl
@[simp] theorem State.takeReset_errIllegalCmd (s : State) : (s.takeReset).errIllegalCmd = false := rfl
@[simp] theorem State.takeReset_rnd (s : State) : (s.takeReset).rnd = Config.freeRnd s.freeIdx := rfl
@[simp] theorem State.takeReset_ki (s : State) : (s.takeReset).ki = Config.freeKi s.freeIdx := rfl
@[simp] theorem State.takeReset_dir (s : State) : (s.takeReset).dir = Config.freeDir s.freeIdx := rfl
@[simp] theorem State.takeReset_cmdIn (s : State) : (s.takeReset).cmdIn = [] := rfl
@[simp] theorem State.takeReset_rspOut (s : State) : (s.takeReset).rspOut = [] := rfl
@[simp] theorem State.takeReset_resetIn (s : State) : (s.takeReset).resetIn = false := rfl
@[simp] theorem State.takeReset_freeIdx (s : State) : (s.takeReset).freeIdx = s.freeIdx + 1 := rfl

@[simp] theorem State.assertReset_block (s : State) : (s.assertReset).block = s.block := rfl
@[simp] theorem State.assertReset_w (s : State) : (s.assertReset).w = s.w := rfl
@[simp] theorem State.assertReset_ksValid (s : State) : (s.assertReset).ksValid = s.ksValid := rfl
@[simp] theorem State.assertReset_errInvalidKey (s : State) : (s.assertReset).errInvalidKey = s.errInvalidKey := rfl
@[simp] theorem State.assertReset_errUnsupportedOp (s : State) : (s.assertReset).errUnsupportedOp = s.errUnsupportedOp := rfl
@[simp] theorem State.assertReset_errKeyNotReady (s : State) : (s.assertReset).errKeyNotReady = s.errKeyNotReady := rfl
@[simp] theorem State.assertReset_errIllegalCmd (s : State) : (s.assertReset).errIllegalCmd = s.errIllegalCmd := rfl
@[simp] theorem State.assertReset_rnd (s : State) : (s.assertReset).rnd = s.rnd := rfl
@[simp] theorem State.assertReset_ki (s : State) : (s.assertReset).ki = s.ki := rfl
@[simp] theorem State.assertReset_dir (s : State) : (s.assertReset).dir = s.dir := rfl
@[simp] theorem State.assertReset_cmdIn (s : State) : (s.assertReset).cmdIn = s.cmdIn := rfl
@[simp] theorem State.assertReset_rspOut (s : State) : (s.assertReset).rspOut = s.rspOut := rfl
@[simp] theorem State.assertReset_resetIn (s : State) : (s.assertReset).resetIn = true := rfl
@[simp] theorem State.assertReset_freeIdx (s : State) : (s.assertReset).freeIdx = s.freeIdx := rfl

@[simp] theorem State.withFrame_block (s : State) (f : Frame) : (s.withFrame f).block = s.block := rfl
@[simp] theorem State.withFrame_w (s : State) (f : Frame) : (s.withFrame f).w = s.w := rfl
@[simp] theorem State.withFrame_ksValid (s : State) (f : Frame) : (s.withFrame f).ksValid = s.ksValid := rfl
@[simp] theorem State.withFrame_errInvalidKey (s : State) (f : Frame) : (s.withFrame f).errInvalidKey = s.errInvalidKey := rfl
@[simp] theorem State.withFrame_errUnsupportedOp (s : State) (f : Frame) : (s.withFrame f).errUnsupportedOp = s.errUnsupportedOp := rfl
@[simp] theorem State.withFrame_errKeyNotReady (s : State) (f : Frame) : (s.withFrame f).errKeyNotReady = s.errKeyNotReady := rfl
@[simp] theorem State.withFrame_errIllegalCmd (s : State) (f : Frame) : (s.withFrame f).errIllegalCmd = s.errIllegalCmd := rfl
@[simp] theorem State.withFrame_rnd (s : State) (f : Frame) : (s.withFrame f).rnd = s.rnd := rfl
@[simp] theorem State.withFrame_ki (s : State) (f : Frame) : (s.withFrame f).ki = s.ki := rfl
@[simp] theorem State.withFrame_dir (s : State) (f : Frame) : (s.withFrame f).dir = s.dir := rfl
@[simp] theorem State.withFrame_cmdIn (s : State) (f : Frame) : (s.withFrame f).cmdIn = f :: s.cmdIn := rfl
@[simp] theorem State.withFrame_rspOut (s : State) (f : Frame) : (s.withFrame f).rspOut = s.rspOut := rfl
@[simp] theorem State.withFrame_resetIn (s : State) (f : Frame) : (s.withFrame f).resetIn = false := rfl
@[simp] theorem State.withFrame_freeIdx (s : State) (f : Frame) : (s.withFrame f).freeIdx = s.freeIdx := rfl

@[simp] theorem State.setError_block (s : State) (e : CoreError) : (s.setError e).block = s.block := by
  cases e <;> rfl
@[simp] theorem State.setError_w (s : State) (e : CoreError) : (s.setError e).w = s.w := by
  cases e <;> rfl
@[simp] theorem State.setError_ksValid (s : State) (e : CoreError) : (s.setError e).ksValid = s.ksValid := by
  cases e <;> rfl
@[simp] theorem State.setError_errInvalidKey (s : State) (e : CoreError) : (s.setError e).errInvalidKey = (s.errInvalidKey || decide (e = .invalidKey)) := by
  cases e <;> simp [State.setError]
@[simp] theorem State.setError_errUnsupportedOp (s : State) (e : CoreError) : (s.setError e).errUnsupportedOp = (s.errUnsupportedOp || decide (e = .unsupportedOperation)) := by
  cases e <;> simp [State.setError]
@[simp] theorem State.setError_errKeyNotReady (s : State) (e : CoreError) : (s.setError e).errKeyNotReady = (s.errKeyNotReady || decide (e = .keyNotReady)) := by
  cases e <;> simp [State.setError]
@[simp] theorem State.setError_errIllegalCmd (s : State) (e : CoreError) : (s.setError e).errIllegalCmd = (s.errIllegalCmd || decide (e = .illegalCommand)) := by
  cases e <;> simp [State.setError]
@[simp] theorem State.setError_rnd (s : State) (e : CoreError) : (s.setError e).rnd = s.rnd := by
  cases e <;> rfl
@[simp] theorem State.setError_ki (s : State) (e : CoreError) : (s.setError e).ki = s.ki := by
  cases e <;> rfl
@[simp] theorem State.setError_dir (s : State) (e : CoreError) : (s.setError e).dir = s.dir := by
  cases e <;> rfl
@[simp] theorem State.setError_cmdIn (s : State) (e : CoreError) : (s.setError e).cmdIn = s.cmdIn := by
  cases e <;> rfl
@[simp] theorem State.setError_rspOut (s : State) (e : CoreError) : (s.setError e).rspOut = s.rspOut := by
  cases e <;> rfl
@[simp] theorem State.setError_resetIn (s : State) (e : CoreError) : (s.setError e).resetIn = s.resetIn := by
  cases e <;> rfl
@[simp] theorem State.setError_freeIdx (s : State) (e : CoreError) : (s.setError e).freeIdx = s.freeIdx := by
  cases e <;> rfl

@[simp] theorem State.raise_block (s : State) (e : CoreError) : (s.raise e).block = s.block := by
  cases e <;> rfl
@[simp] theorem State.raise_w (s : State) (e : CoreError) : (s.raise e).w = s.w := by
  cases e <;> rfl
@[simp] theorem State.raise_ksValid (s : State) (e : CoreError) : (s.raise e).ksValid = s.ksValid := by
  cases e <;> rfl
@[simp] theorem State.raise_errInvalidKey (s : State) (e : CoreError) : (s.raise e).errInvalidKey = (s.errInvalidKey || decide (e = .invalidKey)) := by
  simp [State.raise]
@[simp] theorem State.raise_errUnsupportedOp (s : State) (e : CoreError) : (s.raise e).errUnsupportedOp = (s.errUnsupportedOp || decide (e = .unsupportedOperation)) := by
  simp [State.raise]
@[simp] theorem State.raise_errKeyNotReady (s : State) (e : CoreError) : (s.raise e).errKeyNotReady = (s.errKeyNotReady || decide (e = .keyNotReady)) := by
  simp [State.raise]
@[simp] theorem State.raise_errIllegalCmd (s : State) (e : CoreError) : (s.raise e).errIllegalCmd = (s.errIllegalCmd || decide (e = .illegalCommand)) := by
  simp [State.raise]
@[simp] theorem State.raise_rnd (s : State) (e : CoreError) : (s.raise e).rnd = s.rnd := by
  cases e <;> rfl
@[simp] theorem State.raise_ki (s : State) (e : CoreError) : (s.raise e).ki = s.ki := by
  cases e <;> rfl
@[simp] theorem State.raise_dir (s : State) (e : CoreError) : (s.raise e).dir = s.dir := by
  cases e <;> rfl
@[simp] theorem State.raise_cmdIn (s : State) (e : CoreError) : (s.raise e).cmdIn = s.cmdIn := by
  cases e <;> rfl
@[simp] theorem State.raise_rspOut (s : State) (e : CoreError) : (s.raise e).rspOut = s.rspOut ++ [[codeOf (statusOf e)]] := by
  cases e <;> rfl
@[simp] theorem State.raise_resetIn (s : State) (e : CoreError) : (s.raise e).resetIn = s.resetIn := by
  cases e <;> rfl
@[simp] theorem State.raise_freeIdx (s : State) (e : CoreError) : (s.raise e).freeIdx = s.freeIdx := by
  cases e <;> rfl

/-- `writeKeyWords` touches W alone. -/
theorem State.writeKeyWords_frame (s : State) (key : Block) :
    s.writeKeyWords key = { s with w := (s.writeKeyWords key).w } := rfl

end Sys2Proof.Machine
end

