-- ==== Sys2Proof/Laws/Ops.lean ====
section
/-!
SUPPORT. What the shared operations can do: sequencing, reading and writing W and STATE.
-/

namespace Sys2Proof.Machine

@[simp] theorem andThen_next (s : State) (f : State → Outcome) : andThen (.next s) f = f s := rfl
@[simp] theorem andThen_fault (r : Fault) (f : State → Outcome) : andThen (.fault r) f = .fault r := rfl
@[simp] theorem andThen_refused (r : Refusal) (f : State → Outcome) : andThen (.refused r) f = .refused r := rfl

/-- A sequence that answers a next state went through a next state of its first part. -/
theorem andThen_eq_next {o : Outcome} {f : State → Outcome} {t : State} :
    andThen o f = .next t ↔ ∃ s, o = .next s ∧ f s = .next t := by
  cases o <;> simp [andThen]

/-- `W[i]` read back after a write. -/
theorem State.writeW_get (s : State) (i j : Fin 44) (v : Word) :
    (s.writeW i v).w.get j = if j = i then some v else s.w.get j := by
  simp only [State.writeW_w, Vector.get_eq_getElem, Vector.getElem_set, Fin.ext_iff, eq_comm]

/-- A word that holds a value is read. -/
theorem readW_of_some {i : Fin 44} {s : State} {v : Word} (h : s.w.get i = some v) (k : Word → Outcome) :
    readW i s k = k v := by
  simp [readW, h]

/-- A read of W that does not stop found a value. -/
theorem readW_eq_next {i : Fin 44} {s t : State} {k : Word → Outcome} :
    readW i s k = .next t ↔ ∃ v, s.w.get i = some v ∧ k v = .next t := by
  unfold readW
  cases s.w.get i <;> simp

/-- STATE that holds values is read. -/
theorem readBlock_of_some {s : State} {m : StateMatrix} (h : s.block = some m) (k : StateMatrix → Outcome) :
    readBlock s k = k m := by
  simp [readBlock, h]

/-- After `dropSchedule` no word holds a value. -/
theorem State.dropSchedule_get (s : State) (i : Fin 44) : s.dropSchedule.w.get i = none := by
  simp [noSchedule, Vector.get_eq_getElem]

/-- `raise` in one equation per error (60_exceptions.md R250). -/
theorem State.raise_invalidKey (s : State) :
    s.raise .invalidKey = { s with errInvalidKey := true, rspOut := s.rspOut ++ [[0x01#8]] } := rfl
theorem State.raise_unsupportedOperation (s : State) :
    s.raise .unsupportedOperation = { s with errUnsupportedOp := true, rspOut := s.rspOut ++ [[0x02#8]] } := rfl
theorem State.raise_keyNotReady (s : State) :
    s.raise .keyNotReady = { s with errKeyNotReady := true, rspOut := s.rspOut ++ [[0x04#8]] } := rfl
theorem State.raise_illegalCommand (s : State) :
    s.raise .illegalCommand = { s with errIllegalCmd := true, rspOut := s.rspOut ++ [[0x05#8]] } := rfl

/-- `raise` never clears an `ERR` bit, so it never unhalts the core (R32). -/
theorem State.raise_halted (s : State) (e : CoreError) :
    (s.raise e).halted = (s.halted || decide (e = .invalidKey ∨ e = .unsupportedOperation)) := by
  cases e <;> simp [State.halted]

end Sys2Proof.Machine
end

