-- ==== Sys2Proof/Laws/BlockTransform.lean ====
section
/-!
SUPPORT. What a micro-operation, a round and a whole block command do to the core's state when W holds a schedule
(43_block_transform.md): they compute the pure contract and write STATE and the sequencing state only.
-/

namespace Sys2Proof.Machine

/-- A micro-operation as a function of the state matrix. -/
def microOpOn (ws : Vector Word 44) : MicroOp → StateMatrix → StateMatrix
  | .addRoundKey k => addKey (roundKey ws k)
  | .subBytes => subBytes
  | .shiftRows => shiftRows
  | .mixColumns => mixColumns
  | .invSubBytes => invSubBytes
  | .invShiftRows => invShiftRows
  | .invMixColumns => invMixColumns

/-- Reading a round key from a W that holds `ws`. -/
theorem readRoundKey_holds {s : State} {ws : Vector Word 44} (h : s.Holds ws) (k : Fin 11)
    (f : StateMatrix → Outcome) : readRoundKey k s f = f (roundKey ws k) := by
  simp [readRoundKey, readW_of_some (h _), roundKey]

/-- Every micro-operation rewrites STATE and nothing else. -/
theorem runMicroOp_holds {s : State} {ws : Vector Word 44} {m : StateMatrix} (h : s.Holds ws) (hm : s.block = some m)
    (op : MicroOp) : runMicroOp op s = .next (s.writeBlock (microOpOn ws op m)) := by
  cases op <;> simp [runMicroOp, readRoundKey_holds h, updateBlock, readBlock_of_some hm, microOpOn]

/-- A list of micro-operations computes the composition of their functions. -/
theorem runMicroOps_holds {ws : Vector Word 44} (ops : List MicroOp) :
    ∀ {s : State} {m : StateMatrix}, s.Holds ws → s.block = some m →
      runMicroOps ops s = .next (s.writeBlock (ops.foldl (fun a op => microOpOn ws op a) m)) := by
  induction ops with
  | nil => intro s m _ hm; simp [runMicroOps, State.writeBlock, ← hm]
  | cons op ops ih =>
    intro s m h hm
    rw [runMicroOps, runMicroOp_holds h hm, andThen_next,
      ih (s := s.writeBlock (microOpOn ws op m)) (m := microOpOn ws op m) h (by simp)]
    rfl

/-- The rounds compute the composition of the rounds' functions, and leave `RND` at some value. -/
theorem runRounds_holds {ws : Vector Word 44} (round : Fin 11 → List MicroOp) (ks : List (Fin 11)) :
    ∀ {s : State} {m : StateMatrix}, s.Holds ws → s.block = some m →
      ∃ r, runRounds round ks s = .next { s with
        block := some (ks.foldl (fun a k => (round k).foldl (fun a op => microOpOn ws op a) a) m)
        rnd := r } := by
  induction ks with
  | nil => intro s m _ hm; exact ⟨s.rnd, by simp [runRounds, ← hm]⟩
  | cons k ks ih =>
    intro s m h hm
    rw [runRounds, runMicroOps_holds (s := s.setRnd k) (m := m) (round k) h (by simpa using hm),
      andThen_next]
    obtain ⟨r, hr⟩ := ih (s := (s.setRnd k).writeBlock ((round k).foldl (fun a op => microOpOn ws op a) m))
      (m := (round k).foldl (fun a op => microOpOn ws op a) m) h (by simp)
    exact ⟨r, by rw [hr]; rfl⟩

/-- EncRound as micro-operations and as a function agree. -/
theorem encRound_foldl (ws : Vector Word 44) (k : Fin 11) (m : StateMatrix) :
    (encRound k).foldl (fun a op => microOpOn ws op a) m = encRoundOn ws k m := by
  fin_cases k <;> rfl

/-- DecRound as micro-operations and as a function agree. -/
theorem decRound_foldl (ws : Vector Word 44) (k : Fin 11) (m : StateMatrix) :
    (decRound k).foldl (fun a op => microOpOn ws op a) m = decRoundOn ws k m := by
  fin_cases k <;> rfl

/-- The shared body of ENCBLK and DECBLK on a W that holds `ws`. -/
theorem transformBlock_holds {s : State} {ws : Vector Word 44} (h : s.Holds ws) (d : Direction)
    (round : Fin 11 → List MicroOp) (order : List (Fin 11)) (b : Block) :
    transformBlock d round order b s = .next { s with
      block := none
      rnd := Config.freeRnd s.freeIdx
      dir := Config.freeDir s.freeIdx
      freeIdx := s.freeIdx + 1
      rspOut := s.rspOut ++ [0x00#8 :: (blockOfMatrix
        (order.foldl (fun a k => (round k).foldl (fun a op => microOpOn ws op a) a) (matrixOfBlock b))).toList] } := by
  obtain ⟨r, hr⟩ := runRounds_holds round order (s := (s.setDir d).loadState b) (m := matrixOfBlock b)
    h (by simp)
  rw [transformBlock, hr, andThen_next, storeState, readBlock_of_some rfl]
  rfl

/-- Every micro-operation, round and block command leaves W, the flags and the streams' input alone: what a block command
answers a next state with, whatever W holds. -/
theorem runMicroOp_frame {op : MicroOp} {s t : State} (h : runMicroOp op s = .next t) :
    t = { s with block := t.block } := by
  have key : ∀ f, updateBlock f s = .next t → t = { s with block := t.block } := by
    intro f hf
    unfold updateBlock readBlock at hf
    split at hf
    · cases hf; rfl
    · cases hf
  cases op with
  | addRoundKey k =>
    simp only [runMicroOp, readRoundKey, readW_eq_next] at h
    obtain ⟨_, _, _, _, _, _, _, _, hf⟩ := h
    exact key _ hf
  | subBytes => exact key _ h
  | shiftRows => exact key _ h
  | mixColumns => exact key _ h
  | invSubBytes => exact key _ h
  | invShiftRows => exact key _ h
  | invMixColumns => exact key _ h

theorem runMicroOps_frame (ops : List MicroOp) : ∀ {s t : State}, runMicroOps ops s = .next t →
    t = { s with block := t.block } := by
  induction ops with
  | nil => intro s t h; cases h; rfl
  | cons op ops ih =>
    intro s t h
    obtain ⟨u, hu, ht⟩ := andThen_eq_next.mp h
    have e1 := runMicroOp_frame hu
    have e2 := ih ht
    rw [e2, e1]

theorem runRounds_frame (round : Fin 11 → List MicroOp) (ks : List (Fin 11)) : ∀ {s t : State},
    runRounds round ks s = .next t → t = { s with block := t.block, rnd := t.rnd } := by
  induction ks with
  | nil => intro s t h; cases h; rfl
  | cons k ks ih =>
    intro s t h
    obtain ⟨u, hu, ht⟩ := andThen_eq_next.mp h
    have e1 := runMicroOps_frame _ hu
    have e2 := ih ht
    rw [e2, e1]
    rfl

/-- A block command that answers a next state wrote STATE (void again), `RND`, `DIR` and one OK response of 16 bytes,
whatever W held. -/
theorem transformBlock_frame {d : Direction} {round : Fin 11 → List MicroOp} {order : List (Fin 11)} {b : Block}
    {s t : State} (h : transformBlock d round order b s = .next t) :
    ∃ c : Block, t = { s with
      block := none
      rnd := Config.freeRnd s.freeIdx
      dir := Config.freeDir s.freeIdx
      freeIdx := s.freeIdx + 1
      rspOut := s.rspOut ++ [0x00#8 :: c.toList] } := by
  obtain ⟨u, hu, ht⟩ := andThen_eq_next.mp h
  have e := runRounds_frame _ _ hu
  unfold storeState readBlock at ht
  split at ht
  · rename_i m hm
    cases ht
    refine ⟨blockOfMatrix m, ?_⟩
    rw [e]
    rfl
  · cases ht

end Sys2Proof.Machine
end

