-- ==== Sys2Proof/Laws/Decode.lean ====
section
/-!
SUPPORT. Blocks and their byte lists, and what decoding a frame can answer.
-/

namespace Sys2Proof

@[simp] theorem blockOfList_toList (b : Block) (h : b.toList.length = 16) : blockOfList b.toList h = b := by
  apply Vector.toArray_inj.mp
  simp [blockOfList, Vector.toList]

@[simp] theorem toList_blockOfList (l : List Byte) (h : l.length = 16) : (blockOfList l h).toList = l := by
  simp [blockOfList, Vector.toList]

/-- Byte `j` of a block made of a list. -/
theorem blockOfList_get (l : List Byte) (h : l.length = 16) (j : Fin 16) :
    (blockOfList l h).get j = l[j.val]'(by omega) := by
  simp [blockOfList, Vector.get_eq_getElem]

/-- What `decodePayload` reads: the opcode and payload length of R82, and RDRK's index (30_encoding.md R84). -/
theorem decodePayload_ok {p : Params} {op : Byte} {payload : List Byte} {i : Instr}
    (h : decodePayload p op payload = .ok i) : op = opcodeOf i ∧ payload = payloadOf i ∧
      (∀ j, i = .rdrk j → p.hasRdrk = true) := by
  unfold decodePayload at h
  repeat' (split at h)
  all_goals first | cases h | skip
  all_goals first
    | (unfold decodeBlock at h; split at h <;> cases h; subst_vars; simp [opcodeOf, payloadOf])
    | (unfold decodeRdrk at h
       split at h
       · rename_i hr
         split at h
         · split at h
           · cases h
             subst_vars
             simp [opcodeOf, payloadOf, hr]
           · cases h
         · cases h
       · cases h)
    | (subst_vars; simp [opcodeOf, payloadOf])

end Sys2Proof
end

