-- ==== Sys2Proof/Laws/FieldArithmetic.lean ====
section
/-!
SUPPORT. xtime in one equation, its linearity, and the linearity of each multiplier (40_field_arithmetic.md R111, R124).
-/

namespace Sys2Proof.Machine

/-- xtime on bytes: shift left, reduce when bit 7 was set. -/
theorem xtime_eq (b : Byte) : xtime b = if b.msb then (b <<< 1) ^^^ reductionConst else b <<< 1 := by
  revert b; decide +kernel

/-- xtime is linear over XOR. -/
theorem xtime_xor (a b : Byte) : xtime (a ^^^ b) = xtime a ^^^ xtime b := by
  simp only [xtime_eq, BitVec.msb_xor, BitVec.shiftLeft_xor_distrib]
  generalize a <<< 1 = x
  generalize b <<< 1 = y
  cases a.msb <;> cases b.msb <;> simp <;> ac_nf
  simp

theorem mul1_xor (a b : Byte) : mul1 (a ^^^ b) = mul1 a ^^^ mul1 b := rfl
theorem mul2_xor (a b : Byte) : mul2 (a ^^^ b) = mul2 a ^^^ mul2 b := xtime_xor a b
theorem mul3_xor (a b : Byte) : mul3 (a ^^^ b) = mul3 a ^^^ mul3 b := by
  simp only [mul3, xtime_xor]; ac_rfl
theorem mul4_xor (a b : Byte) : mul4 (a ^^^ b) = mul4 a ^^^ mul4 b := by
  simp only [mul4, xtime_xor]
theorem mul8_xor (a b : Byte) : mul8 (a ^^^ b) = mul8 a ^^^ mul8 b := by
  simp only [mul8, mul4_xor, xtime_xor]
theorem mul9_xor (a b : Byte) : mul9 (a ^^^ b) = mul9 a ^^^ mul9 b := by
  simp only [mul9, mul8_xor]; ac_rfl
theorem mul11_xor (a b : Byte) : mul11 (a ^^^ b) = mul11 a ^^^ mul11 b := by
  simp only [mul11, mul9_xor, mul2_xor]; ac_rfl
theorem mul12_xor (a b : Byte) : mul12 (a ^^^ b) = mul12 a ^^^ mul12 b := by
  simp only [mul12, mul8_xor, mul4_xor]; ac_rfl
theorem mul13_xor (a b : Byte) : mul13 (a ^^^ b) = mul13 a ^^^ mul13 b := by
  simp only [mul13, mul12_xor]; ac_rfl
theorem mul14_xor (a b : Byte) : mul14 (a ^^^ b) = mul14 a ^^^ mul14 b := by
  simp only [mul14, mul12_xor, mul2_xor]; ac_rfl

/-- `mul` has a value exactly for the ten constants (R112). -/
theorem mul_isSome (c s : Byte) : (mul c s).isSome = true ↔ c ∈ mulConstants := by
  have h : ∀ c : Byte, (mul c 0).isSome = true ↔ c ∈ mulConstants := by decide +kernel
  rw [← h c]
  unfold mul
  split <;> simp

end Sys2Proof.Machine
end

