-- ==== Sys2Proof/Laws/KeySchedule.lean ====
section
/-!
SUPPORT. What LOADKEY's loop does: it fills W in ascending order by the recurrence of 42_key_schedule.md R156 and R157 and
touches nothing but W and `KI`.
-/

namespace Sys2Proof.Machine

/-- The words below `n` are those of the schedule of `key`, as far as the recurrence goes. -/
def ScheduleBelow (key : Block) (n : Nat) (w : Vector (Option Word) 44) : Prop :=
  (∀ i : Fin 4, w.get ⟨i.val, by omega⟩ = some (keyWord key i)) ∧
  ∀ i : Fin 44, 4 ≤ i.val → i.val < n → ∃ a b,
    w.get (wordBefore i 4) = some a ∧ w.get (wordBefore i 1) = some b ∧ w.get i = some (nextWord i a b)

/-- In such a W every word below `n` holds a value. -/
theorem ScheduleBelow.some_below {key : Block} {n : Nat} {w : Vector (Option Word) 44} (h : ScheduleBelow key n w)
    (i : Fin 44) (hi : i.val < n) : ∃ v, w.get i = some v := by
  by_cases h4 : 4 ≤ i.val
  · obtain ⟨a, b, _, _, hv⟩ := h.2 i h4 hi
    exact ⟨_, hv⟩
  · exact ⟨_, h.1 ⟨i.val, by omega⟩⟩

/-- One turn of the loop, on a W filled below `KI`. -/
theorem expandWord_below {key : Block} {i : Fin 44} {s : State} (h : ScheduleBelow key i.val s.w) (hi : 4 ≤ i.val) :
    ∃ t, expandWord i s = .next t ∧ ScheduleBelow key (i.val + 1) t.w ∧ t = { s with w := t.w, ki := t.ki } := by
  obtain ⟨a, ha⟩ := h.some_below (wordBefore i 4) (by simp [wordBefore]; omega)
  obtain ⟨b, hb⟩ := h.some_below (wordBefore i 1) (by simp [wordBefore]; omega)
  have hset := State.writeW_get (s.setKi i) i
  refine ⟨(s.setKi i).writeW i (nextWord i a b), ?_, ?_, rfl⟩
  · rw [expandWord, readW_of_some (v := a) (by simpa using ha), readW_of_some (v := b) (by simpa using hb)]
  · constructor
    · intro j
      rw [hset, if_neg (by simp [Fin.ext_iff]; omega)]
      exact h.1 j
    · intro j h4 hj
      by_cases hji : j = i
      · subst hji
        refine ⟨a, b, ?_, ?_, ?_⟩ <;> rw [hset]
        · rw [if_neg (by simp [wordBefore, Fin.ext_iff]; omega)]; exact ha
        · rw [if_neg (by simp [wordBefore, Fin.ext_iff]; omega)]; exact hb
        · rw [if_pos rfl]
      · have hlt : j.val < i.val := by
          have : j.val ≠ i.val := fun e => hji (Fin.ext e)
          omega
        obtain ⟨x, y, hx, hy, hv⟩ := h.2 j h4 hlt
        refine ⟨x, y, ?_, ?_, ?_⟩ <;> rw [hset]
        · rw [if_neg (by simp [wordBefore, Fin.ext_iff]; omega)]; exact hx
        · rw [if_neg (by simp [wordBefore, Fin.ext_iff]; omega)]; exact hy
        · rw [if_neg hji]; exact hv

/-- The whole loop, from any turn on. -/
theorem expandLoop_below {key : Block} (n : Nat) (hn : n ≤ 40) : ∀ {s : State}, ScheduleBelow key (44 - n) s.w →
    ∃ t, expandLoop n s = .next t ∧ ScheduleBelow key 44 t.w ∧ t = { s with w := t.w, ki := t.ki } := by
  induction n with
  | zero => intro s h; exact ⟨s, rfl, h, rfl⟩
  | succ n ih =>
    intro s h
    obtain ⟨u, hu, hw, eu⟩ := expandWord_below (i := ⟨43 - n, by omega⟩) (s := s)
      (by rwa [show 44 - (n + 1) = 43 - n by omega] at h) (by simp; omega)
    obtain ⟨t, ht, hw', et⟩ := ih (by omega) (s := u) (by rwa [show 44 - n = 43 - n + 1 by omega])
    refine ⟨t, ?_, hw', ?_⟩
    · rw [expandLoop, hu, andThen_next, ht]
    · rw [et, eu]

/-- The key's own words (R152). -/
theorem State.writeKeyWords_below (s : State) (key : Block) : ScheduleBelow key 4 (s.writeKeyWords key).w := by
  constructor
  · intro i
    simp only [State.writeKeyWords, State.writeW_get]
    fin_cases i <;> simp [Fin.ext_iff]
  · intro i h4 hi
    omega

/-- A W filled to the end is the schedule `expand(key)` yields. -/
theorem ScheduleBelow.schedule {key : Block} {w : Vector (Option Word) 44} (h : ScheduleBelow key 44 w) :
    ∃ ws : Vector Word 44, (∀ i : Fin 44, w.get i = some (ws.get i)) ∧ ScheduleOf key ws := by
  have hall : ∀ i : Fin 44, ∃ v, w.get i = some v := fun i => h.some_below i i.isLt
  choose f hf using hall
  refine ⟨Vector.ofFn f, ?_, ?_⟩
  · intro i; rw [hf]; simp [Vector.get_eq_getElem]
  · have hget : ∀ i, (Vector.ofFn f).get i = f i := by intro i; simp [Vector.get_eq_getElem]
    have rec44 : ∀ i : Fin 44, 4 ≤ i.val → f i = nextWord i (f (wordBefore i 4)) (f (wordBefore i 1)) := by
      intro i h4
      obtain ⟨a, b, ha, hb, hv⟩ := h.2 i h4 i.isLt
      rw [hf] at ha hb hv
      cases ha; cases hb
      exact Option.some.inj hv
    refine ⟨?_, ?_, ?_⟩
    · intro i
      rw [hget]
      exact Option.some.inj ((hf _).symm.trans (h.1 i))
    · intro i h4 hm
      simp only [hget]
      rw [rec44 i h4, nextWord, if_neg hm]
      rfl
    · intro i h4 hm
      simp only [hget]
      rw [rec44 i h4, nextWord, if_pos hm]
      rfl

/-- LOADKEY with a key of 16 bytes. -/
theorem loadSchedule_next (key : Block) (s : State) :
    ∃ w ws k, (∀ i : Fin 44, w.get i = some (ws.get i)) ∧ ScheduleOf key ws ∧
      loadSchedule key s = .next { s with
        w := w
        ksValid := true
        ki := k
        freeIdx := s.freeIdx + 1
        rspOut := s.rspOut ++ [[0x00#8]] } := by
  obtain ⟨t, ht, hw, et⟩ := expandLoop_below (key := key) 40 (by omega) (s := s.writeKeyWords key)
    (s.writeKeyWords_below key)
  obtain ⟨ws, hws, hs⟩ := hw.schedule
  refine ⟨t.w, ws, Config.freeKi s.freeIdx, hws, hs, ?_⟩
  rw [loadSchedule, ht, andThen_next, et]
  rfl

/-- A schedule is determined by its key (R150, R159). -/
theorem ScheduleOf.unique {key : Block} {ws vs : Vector Word 44} (hw : ScheduleOf key ws) (hv : ScheduleOf key vs) :
    ws = vs := by
  have h : ∀ n (i : Fin 44), i.val < n → ws.get i = vs.get i := by
    intro n
    induction n with
    | zero => intro i hi; omega
    | succ n ih =>
      intro i hi
      by_cases h4 : 4 ≤ i.val
      · have e4 := ih ⟨i.val - 4, by omega⟩ (by simp; omega)
        have e1 := ih ⟨i.val - 1, by omega⟩ (by simp; omega)
        by_cases hm : i.val % 4 = 0
        · rw [hw.2.2 i h4 hm, hv.2.2 i h4 hm, e4, e1]
        · rw [hw.2.1 i h4 hm, hv.2.1 i h4 hm, e4, e1]
      · exact (hw.1 ⟨i.val, by omega⟩).trans (hv.1 ⟨i.val, by omega⟩).symm
  apply Vector.ext
  intro i hi
  have := h 44 ⟨i, hi⟩ hi
  simpa [Vector.get_eq_getElem] using this

end Sys2Proof.Machine
end

