-- ==== Sys2Proof/Laws/Step.lean ====
section
/-!
SUPPORT. What each command answers, in one lemma per command, and what a step can do: reset, wait, refuse, raise
IllegalCommand or run the decoded command (30_encoding.md R91).
-/

namespace Sys2Proof.Machine

/-- LOADKEY always answers: a schedule, or InvalidKey with the old schedule gone. -/
theorem execLoadkey_next (key : List Byte) (s : State) :
    (∃ h : key.length = 16, ∃ w ws k, (∀ i : Fin 44, w.get i = some (ws.get i)) ∧ ScheduleOf (blockOfList key h) ws ∧
      execLoadkey key s = .next { s with
        w := w, ksValid := true, ki := k, freeIdx := s.freeIdx + 1, rspOut := s.rspOut ++ [[0x00#8]] }) ∨
    (key.length ≠ 16 ∧ execLoadkey key s = .next { s with
        w := noSchedule, ksValid := false, errInvalidKey := true, rspOut := s.rspOut ++ [[0x01#8]] }) := by
  by_cases h : key.length = 16
  · left
    obtain ⟨w, ws, k, hw, hs, e⟩ := loadSchedule_next (blockOfList key h) s.dropSchedule
    refine ⟨h, w, ws, k, hw, hs, ?_⟩
    rw [execLoadkey, dif_pos h, e]
    rfl
  · right
    refine ⟨h, ?_⟩
    rw [execLoadkey, dif_neg h]
    rfl

/-- A block command without a schedule raises KeyNotReady. -/
theorem execEncblk_noKey {s : State} (h : s.ksValid = false) (b : Block) :
    execEncblk b s = .next (s.raise .keyNotReady) := by simp [execEncblk, h]
theorem execDecblk_noKey {s : State} (h : s.ksValid = false) (b : Block) :
    execDecblk b s = .next (s.raise .keyNotReady) := by simp [execDecblk, h]
theorem execRdrk_noKey {s : State} (h : s.ksValid = false) (i : Fin 44) :
    execRdrk i s = .next (s.raise .keyNotReady) := by simp [execRdrk, h]

/-- What every command leaves alone, and the one response it adds, whatever W holds. -/
theorem exec_frame {i : Instr} {s t : State} (h : exec i s = .next t) :
    ∃ q, t.rspOut = s.rspOut ++ [q] ∧ ResponseWf q ∧ t.cmdIn = s.cmdIn ∧ t.resetIn = s.resetIn ∧
      (s.block = none → t.block = none) ∧
      ((SameErrors s t ∧ q.head? = some 0x00#8) ∨ ∃ e, q = [codeOf (statusOf e)] ∧ SameErrors (s.setError e) t) := by
  have hraise : ∀ e, (s.raise e) = t →
      ∃ q, t.rspOut = s.rspOut ++ [q] ∧ ResponseWf q ∧ t.cmdIn = s.cmdIn ∧ t.resetIn = s.resetIn ∧
      (s.block = none → t.block = none) ∧
      ((SameErrors s t ∧ q.head? = some 0x00#8) ∨ ∃ e, q = [codeOf (statusOf e)] ∧ SameErrors (s.setError e) t) := by
    rintro e rfl
    refine ⟨[codeOf (statusOf e)], by simp, ?_, by simp, by simp, by simp, .inr ⟨e, rfl, by simp [SameErrors]⟩⟩
    cases e <;> simp [ResponseWf, codeOf, statusOf]
  have hblock : ∀ {d round order b}, transformBlock d round order b s = .next t →
      ∃ q, t.rspOut = s.rspOut ++ [q] ∧ ResponseWf q ∧ t.cmdIn = s.cmdIn ∧ t.resetIn = s.resetIn ∧
      (s.block = none → t.block = none) ∧
      ((SameErrors s t ∧ q.head? = some 0x00#8) ∨ ∃ e, q = [codeOf (statusOf e)] ∧ SameErrors (s.setError e) t) := by
    intro d round order b hb
    obtain ⟨c, rfl⟩ := transformBlock_frame hb
    exact ⟨_, rfl, by simp [ResponseWf], rfl, rfl, by simp, .inl ⟨by simp [SameErrors], rfl⟩⟩
  have hok : ∀ bytes : List Byte, (bytes.length = 0 ∨ bytes.length = 1 ∨ bytes.length = 4 ∨ bytes.length = 16) →
      s.respond .ok bytes = t →
      ∃ q, t.rspOut = s.rspOut ++ [q] ∧ ResponseWf q ∧ t.cmdIn = s.cmdIn ∧ t.resetIn = s.resetIn ∧
      (s.block = none → t.block = none) ∧
      ((SameErrors s t ∧ q.head? = some 0x00#8) ∨ ∃ e, q = [codeOf (statusOf e)] ∧ SameErrors (s.setError e) t) := by
    rintro bytes hb rfl
    exact ⟨_, rfl, by simpa [ResponseWf, codeOf] using hb, rfl, rfl, by simp, .inl ⟨by simp [SameErrors], rfl⟩⟩
  cases i with
  | loadkey key =>
    simp only [exec] at h
    rcases execLoadkey_next key s with ⟨_, w, ws, k, _, _, e⟩ | ⟨_, e⟩
    · rw [e] at h; cases h
      exact ⟨_, rfl, by simp [ResponseWf], rfl, rfl, by simp, .inl ⟨by simp [SameErrors], rfl⟩⟩
    · rw [e] at h; cases h
      exact ⟨_, rfl, by simp [ResponseWf], rfl, rfl, by simp, .inr ⟨.invalidKey, rfl, by simp [SameErrors, State.setError]⟩⟩
  | encblk b =>
    simp only [exec, execEncblk] at h
    split at h
    · exact hblock h
    · cases h; exact hraise _ rfl
  | decblk b =>
    simp only [exec, execDecblk] at h
    split at h
    · exact hblock h
    · cases h; exact hraise _ rfl
  | gfmul c x =>
    simp only [exec, execGfmul] at h
    split at h
    · cases h; exact hok _ (by simp) rfl
    · cases h; exact hraise _ rfl
  | sbox b => simp only [exec, execSbox] at h; cases h; exact hok _ (by simp) rfl
  | isbox b => simp only [exec, execIsbox] at h; cases h; exact hok _ (by simp) rfl
  | rdrk j =>
    simp only [exec, execRdrk] at h
    split at h
    · rw [readW_eq_next] at h
      obtain ⟨v, _, h⟩ := h
      cases h; exact hok _ (by simp [bytesOfWord]) rfl
    · cases h; exact hraise _ rfl
  | status => simp only [exec, execStatus] at h; cases h; exact hok _ (by simp) rfl

/-- What a frame that was taken can lead to (30_encoding.md R91). -/
theorem runFrame_cases {p : Params} {f : Frame} {s t : State} (h : runFrame p f s = .next t) :
    (s.halted = true ∧ decode p f ≠ .ok .status ∧ t = s.respond .halted []) ∨
    (s.halted = false ∧ (∃ e, decode p f = .error e) ∧ t = s.raise .illegalCommand) ∨
    (∃ i, decode p f = .ok i ∧ (s.halted = false ∨ i = .status) ∧ exec i s = .next t) := by
  unfold runFrame at h
  cases hd : decode p f with
  | error e =>
    rw [hd] at h
    cases hh : s.halted
    · simp only [hh, Bool.false_eq_true, if_false] at h; cases h; exact .inr (.inl ⟨rfl, ⟨e, rfl⟩, rfl⟩)
    · simp only [hh, if_true] at h; cases h; exact .inl ⟨rfl, by simp, rfl⟩
  | ok i =>
    rw [hd] at h
    by_cases hc : s.halted = true ∧ i ≠ .status
    · simp only [if_pos hc] at h; cases h; exact .inl ⟨hc.1, by simpa using hc.2, rfl⟩
    · simp only [if_neg hc] at h
      refine .inr (.inr ⟨i, rfl, ?_, h⟩)
      cases hh : s.halted
      · exact .inl rfl
      · exact .inr (Classical.byContradiction fun hi => hc ⟨hh, hi⟩)

/-- What a step can do. -/
theorem coreStep_cases {p : Params} {s t : State} (h : coreStep p s = .next t) :
    (s.resetIn = true ∧ t = s.takeReset) ∨
    (s.resetIn = false ∧ s.cmdIn = [] ∧ t = s) ∨
    (∃ f rest, s.Takes f rest ∧ runFrame p f { s with cmdIn := rest } = .next t) := by
  unfold coreStep at h
  cases hr : s.resetIn
  · simp only [hr, Bool.false_eq_true, if_false] at h
    cases hc : s.cmdIn with
    | nil => rw [hc] at h; cases h; exact .inr (.inl ⟨rfl, rfl, rfl⟩)
    | cons f rest => rw [hc] at h; exact .inr (.inr ⟨f, rest, ⟨hr, hc⟩, h⟩)
  · simp only [hr, if_true] at h; cases h; exact .inl ⟨rfl, rfl⟩

/-- A step that takes a frame. -/
theorem coreStep_takes {p : Params} {s : State} {f : Frame} {rest : List Frame} (h : s.Takes f rest) :
    coreStep p s = runFrame p f { s with cmdIn := rest } := by
  obtain ⟨h1, h2⟩ := h
  simp [coreStep, h1, h2]

end Sys2Proof.Machine
end

