-- ==== Sys2Proof/Laws/Driver.lean ====
section
/-!
SUPPORT. What the host's driver does around one command, and how a buffer is cut into blocks (45_buffer_driver.md).
-/

namespace Sys2Proof.Machine

/-- One command of the driver on a core that waits: the decoded command runs, and the response it emits is taken. -/
theorem command_next {p : Params} {f : Frame} {s t : State} {i : Instr} {q : Frame}
    (hr : s.resetIn = false) (hc : s.cmdIn = []) (hh : s.halted = false) (hl : f.length ≤ 1 + p.payloadMax)
    (hd : decode p f = .ok i) (he : exec i s = .next t) (hq : t.rspOut = s.rspOut ++ [q]) :
    command p f s = .next ({ t with rspOut := s.rspOut }, resultOf q) := by
  have hs : s.sendFrame p f = some { s with cmdIn := [f] } := by simp [State.sendFrame, hl, hc]
  have hs' : ({ s with cmdIn := [] } : State) = s := by rw [← hc]
  have hstep : coreStep p { s with cmdIn := [f] } = .next t := by
    rw [coreStep_takes (s := { s with cmdIn := [f] }) (f := f) (rest := []) ⟨hr, rfl⟩, hs', runFrame, hd]
    simp only [hh, Bool.false_eq_true, false_and, if_false]
    exact he
  simp [command, exchange, hs, runSteps, hstep, hq]

@[simp] theorem chunks_length (n : Nat) : ∀ l : List Byte, (chunks n l).length = n := by
  induction n with
  | zero => intro l; rfl
  | succ n ih => intro l; simp [chunks, ih]

/-- Piece `j` of a buffer. -/
theorem chunks_getElem (n : Nat) : ∀ (l : List Byte) (j : Nat) (h : j < (chunks n l).length),
    (chunks n l)[j] = (l.drop (16 * j)).take 16 := by
  induction n with
  | zero => intro l j h; simp at h
  | succ n ih =>
    intro l j h
    cases j with
    | zero => simp [chunks]
    | succ j =>
      simp only [chunks, List.getElem_cons_succ]
      rw [ih, List.drop_drop, show 16 + 16 * j = 16 * (j + 1) by omega]

/-- Every piece of a buffer of `16n` bytes has 16 bytes. -/
theorem chunks_length_eq {n : Nat} : ∀ {l : List Byte}, l.length = 16 * n → ∀ b ∈ chunks n l, b.length = 16 := by
  induction n with
  | zero => intro l _ b hb; simp [chunks] at hb
  | succ n ih =>
    intro l h b hb
    simp only [chunks, List.mem_cons] at hb
    rcases hb with rfl | hb
    · simp; omega
    · exact ih (by simp; omega) b hb

/-- The pieces joined again are the buffer. -/
theorem chunks_flatten {n : Nat} : ∀ {l : List Byte}, l.length = 16 * n → (chunks n l).flatten = l := by
  induction n with
  | zero => intro l h; simp at h; simp [chunks, h]
  | succ n ih =>
    intro l h
    rw [chunks, List.flatten_cons, ih (by simp; omega), List.take_append_drop]

/-- A list of `n` blocks of 16 bytes, joined and cut again. -/
theorem chunks_of_flatten : ∀ (bs : List (List Byte)), (∀ b ∈ bs, b.length = 16) → chunks bs.length bs.flatten = bs := by
  intro bs
  induction bs with
  | nil => intro _; rfl
  | cons b bs ih =>
    intro h
    have hb : b.length = 16 := h b (by simp)
    rw [List.length_cons, chunks, List.flatten_cons, List.take_append_of_le_length (by omega),
      List.take_of_length_le (by omega), List.drop_append, ← hb]
    simp [ih fun c hc => h c (by simp [hc])]

/-- The padded length (R221). -/
theorem pad_length (l : List Byte) : (pad l).length = 16 * (l.length / 16 + 1) := by
  simp [pad]; omega

/-- What one command of the driver can do to a core that waits: nothing, where the transport does not carry the frame, or one
step of the core on that frame, after which at most the response is taken. -/
theorem command_cases {p : Params} {f : Frame} {s t : State} {r : Except DriverError (List Byte)} (hc : s.cmdIn = [])
    (h : command p f s = .next (t, r)) :
    (t = s ∧ r = .error .frameTooLong) ∨
    ∃ u, coreStep p { s with cmdIn := [f] } = .next u ∧ t = { u with rspOut := t.rspOut } := by
  by_cases hl : f.length ≤ 1 + p.payloadMax
  · right
    have hs : s.sendFrame p f = some { s with cmdIn := [f] } := by simp [State.sendFrame, hl, hc]
    have hn : runSteps p ({ s with cmdIn := [f] } : State).cmdIn.length { s with cmdIn := [f] } =
        coreStep p { s with cmdIn := [f] } := by
      simp only [runSteps, List.length_singleton]
      cases coreStep p { s with cmdIn := [f] } <;> rfl
    simp only [command, exchange, hs, hn] at h
    cases hu : coreStep p { s with cmdIn := [f] } with
    | next u =>
      rw [hu] at h
      refine ⟨u, rfl, ?_⟩
      cases hq : u.rspOut.getLast? with
      | none => simp only [hq] at h; cases h; rfl
      | some q => simp only [hq] at h; cases h; rfl
    | fault r => rw [hu] at h; cases h
    | refused r => rw [hu] at h; cases h
  · left
    have hs : s.sendFrame p f = none := by simp [State.sendFrame, hl]
    simp only [command, exchange, hs] at h
    cases h
    exact ⟨rfl, rfl⟩

/-- A manager whose schedule is there sends no LOADKEY. -/
theorem withSchedule_created {α : Type} {p : Params} {m : CipherManager} {s : State} (h : m.schedule = .created)
    (op : State → DriverOutcome α) : withSchedule p m s op = withManager m (op s) := by
  simp [withSchedule, ensureSchedule, h]

/-- A manager whose LOADKEY failed sends nothing and reports the same error again. -/
theorem withSchedule_failed {α : Type} {p : Params} {m : CipherManager} {s : State} {e : DriverError}
    (h : m.schedule = .failed e) (op : State → DriverOutcome α) : withSchedule p m s op = .next (m, s, .error e) := by
  simp [withSchedule, ensureSchedule, h]

/-- A manager whose first LOADKEY is answered OK goes on with the core that answered it. -/
theorem withSchedule_first {α : Type} {p : Params} {m : CipherManager} {s t : State} {bytes : List Byte}
    (h : m.schedule = .absent) (hk : loadKey p m.key s = .next (t, .ok bytes)) (op : State → DriverOutcome α) :
    withSchedule p m s op = withManager { m with schedule := .created } (op t) := by
  simp [withSchedule, ensureSchedule, h, hk]

/-- A manager whose first LOADKEY fails sends no block command. -/
theorem withSchedule_first_error {α : Type} {p : Params} {m : CipherManager} {s t : State} {e : DriverError}
    (h : m.schedule = .absent) (hk : loadKey p m.key s = .next (t, .error e)) (op : State → DriverOutcome α) :
    withSchedule p m s op = .next ({ m with schedule := .failed e }, t, .error e) := by
  simp [withSchedule, ensureSchedule, h, hk]

end Sys2Proof.Machine
end

