-- ==== Sys2Proof/Laws/PerInstr.lean ====
section
/-!
SUPPORT. Statements for all commands, made per command: the shape of a command's frame (30_encoding.md R80, R82).
-/

namespace Sys2Proof.Laws.EncodeShape

/-- The frame of a command is its opcode, one of 0x01..0x08, and a payload of the length R82 requires (any, for LOADKEY). -/
def Statement (i : Instr) : Prop :=
  encode i = opcodeOf i :: payloadOf i ∧ 1 ≤ (opcodeOf i).toNat ∧ (opcodeOf i).toNat ≤ 8 ∧
    (opcodeOf i ≠ 0x01#8 → (payloadOf i).length = tablePayloadLength (opcodeOf i))

theorem loadkey (key : List Byte) : Statement (.loadkey key) := by simp [Statement, encode, opcodeOf]
theorem encblk (b : Block) : Statement (.encblk b) := by
  simp [Statement, encode, opcodeOf, payloadOf, tablePayloadLength]
theorem decblk (b : Block) : Statement (.decblk b) := by
  simp [Statement, encode, opcodeOf, payloadOf, tablePayloadLength]
theorem gfmul (c s : Byte) : Statement (.gfmul c s) := by
  simp [Statement, encode, opcodeOf, payloadOf, tablePayloadLength]
theorem sbox (b : Byte) : Statement (.sbox b) := by
  simp [Statement, encode, opcodeOf, payloadOf, tablePayloadLength]
theorem isbox (b : Byte) : Statement (.isbox b) := by
  simp [Statement, encode, opcodeOf, payloadOf, tablePayloadLength]
theorem rdrk (i : Fin 44) : Statement (.rdrk i) := by
  simp [Statement, encode, opcodeOf, payloadOf, tablePayloadLength]
theorem status : Statement .status := by
  simp [Statement, encode, opcodeOf, payloadOf, tablePayloadLength]

end Sys2Proof.Laws.EncodeShape
end

