-- ==== Sys2Proof/Tests/Slice0.lean ====
section
/-!
SUPPORT. The model's own tests, with expected values from the spec's rules and 95_test_vectors.md (named at each test), and
one witness per statement that has hypotheses: a concrete state and operands that meet all of them together.
-/

open Sys2Proof Sys2Proof.Machine

namespace Sys2Proof.Tests

/-! ## Small states -/

/-- What a field is after an outcome; `none` if it stopped. -/
def after {α : Type} (o : Outcome) (f : State → α) : Option α :=
  match o with
  | .next s => some (f s)
  | .fault _ => none
  | .refused _ => none

/-- The response of one step on `s` with `f` as the next frame. -/
def answer (s : State) (f : Frame) : Option (List Frame) := after (step (s.withFrame f)) State.rspOut

/-- The known-answer key (95_test_vectors.md S2). -/
def key : List Byte := [0x00, 0x01, 0x02, 0x03, 0x04, 0x05, 0x06, 0x07, 0x08, 0x09, 0x0a, 0x0b, 0x0c, 0x0d, 0x0e, 0x0f]

/-- Its 44 words as 95_test_vectors.md section 2.3 prints them. -/
def knownWords : Vector Word 44 :=
  #v[0x00010203, 0x04050607, 0x08090a0b, 0x0c0d0e0f,
     0xd6aa74fd, 0xd2af72fa, 0xdaa678f1, 0xd6ab76fe,
     0xb692cf0b, 0x643dbdf1, 0xbe9bc500, 0x6830b3fe,
     0xb6ff744e, 0xd2c2c9bf, 0x6c590cbf, 0x0469bf41,
     0x47f7f7bc, 0x95353e03, 0xf96c32bc, 0xfd058dfd,
     0x3caaa3e8, 0xa99f9deb, 0x50f3af57, 0xadf622aa,
     0x5e390f7d, 0xf7a69296, 0xa7553dc1, 0x0aa31f6b,
     0x14f9701a, 0xe35fe28c, 0x440adf4d, 0x4ea9c026,
     0x47438735, 0xa41c65b9, 0xe016baf4, 0xaebf7ad2,
     0x549932d1, 0xf0855768, 0x1093ed9c, 0xbe2c974e,
     0x13111d7f, 0xe3944a17, 0xf307a78b, 0x4d2b30c5]

/-- A core that holds the known-answer key's schedule. -/
def keyed : State := { State.reset with w := knownWords.map some, ksValid := true }

/-- A core halted by UnsupportedOperation. -/
def halted : State := { State.reset with errUnsupportedOp := true }

/-- A block of sixteen equal bytes. -/
def flat (b : Byte) : Block := Vector.replicate 16 b

/-- The known-answer plaintext (S2). -/
def plain : Block := #v[0x00, 0x11, 0x22, 0x33, 0x44, 0x55, 0x66, 0x77, 0x88, 0x99, 0xaa, 0xbb, 0xcc, 0xdd, 0xee, 0xff]

/-- The known-answer ciphertext (S2). -/
def cipher : Block := #v[0x69, 0xc4, 0xe0, 0xd8, 0x6a, 0x7b, 0x04, 0x30, 0xd8, 0xcd, 0xb7, 0x80, 0x70, 0xb4, 0xc5, 0x5a]

theorem keyed_holds : keyed.Holds knownWords := by
  have h : ∀ i : Fin 44, keyed.w.get i = some (knownWords.get i) := by decide +kernel
  exact h

theorem keyed_schedule : ScheduleOf (blockOfList key rfl) knownWords := by
  unfold ScheduleOf; decide +kernel

theorem keyed_inv : Inv keyed :=
  ⟨rfl, fun _ => ⟨_, _, keyed_holds, keyed_schedule⟩, nofun, nofun, nofun⟩

/-! ## WellFormed: each check refuses an ill-formed term (30_encoding.md R80, R85) -/

theorem test_wf_refuses_long_key :
    Instr.wf { payloadMax := 16, hasRdrk := true } (.loadkey (List.replicate 17 0x00)) = false := by decide
theorem test_wf_accepts_longest_key :
    Instr.wf { payloadMax := 16, hasRdrk := true } (.loadkey (List.replicate 16 0x00)) = true := by decide
theorem test_wf_refuses_rdrk_where_absent :
    Instr.wf { payloadMax := 16, hasRdrk := false } (.rdrk 0) = false := by decide
theorem test_wf_accepts_rdrk : Instr.wf { payloadMax := 16, hasRdrk := true } (.rdrk 43) = true := by decide

/-! ## Decoding: one frame per command, written out from R82 and R83 -/

theorem test_decode_loadkey : decode Config.params (0x01 :: key) = .ok (.loadkey key) := by decide
theorem test_decode_encblk : decode Config.params [0x02, 0x00, 0x11, 0x22, 0x33, 0x44, 0x55, 0x66, 0x77, 0x88, 0x99, 0xaa, 0xbb, 0xcc, 0xdd, 0xee, 0xff] = .ok (.encblk plain) := by decide
theorem test_decode_decblk : decode Config.params [0x03, 0x69, 0xc4, 0xe0, 0xd8, 0x6a, 0x7b, 0x04, 0x30, 0xd8, 0xcd, 0xb7, 0x80, 0x70, 0xb4, 0xc5, 0x5a] = .ok (.decblk cipher) := by decide
theorem test_decode_gfmul : decode Config.params [0x04, 0x02, 0x80] = .ok (.gfmul 0x02 0x80) := by decide
theorem test_decode_sbox : decode Config.params [0x05, 0x10] = .ok (.sbox 0x10) := by decide
theorem test_decode_isbox : decode Config.params [0x06, 0xca] = .ok (.isbox 0xca) := by decide
theorem test_decode_rdrk : decode Config.params [0x07, 0x2b] = .ok (.rdrk 43) := by decide
theorem test_decode_status : decode Config.params [0x08] = .ok .status := by decide
theorem test_encode_gfmul : encode (.gfmul 0x03 0x57) = [0x04, 0x03, 0x57] := by decide
theorem test_encode_rdrk : encode (.rdrk 4) = [0x07, 0x04] := by decide

/-- The illegal frames of 95_test_vectors.md section 2.7 and of R85, each by its reason. -/
theorem test_decode_illegal :
    decode Config.params [] = .error .emptyFrame ∧
    decode Config.params [0x00] = .error .unknownOpcode ∧
    decode Config.params [0x09] = .error .unknownOpcode ∧
    decode Config.params [0xff] = .error .unknownOpcode ∧
    decode Config.params (0x02 :: List.replicate 15 0x00) = .error .payloadLength ∧
    decode Config.params (0x03 :: List.replicate 17 0x00) = .error .payloadLength ∧
    decode Config.params [0x04, 0x01] = .error .payloadLength ∧
    decode Config.params [0x04, 0x01, 0x02, 0x03] = .error .payloadLength ∧
    decode Config.params [0x05] = .error .payloadLength ∧
    decode Config.params [0x06, 0x01, 0x02] = .error .payloadLength ∧
    decode Config.params [0x07, 0x2c] = .error .wordIndex ∧
    decode Config.params [0x08, 0x01] = .error .payloadLength ∧
    decode { payloadMax := 255, hasRdrk := false } [0x07, 0x00] = .error .noRdrk := by decide

/-- The opcode table's rows, laid out as log 9 says. -/
theorem test_table_words :
    decodeTableWord 8 0x01 = some (.loadkey (List.replicate 16 0x00)) ∧
    decodeTableWord 8 0x02 = some (.encblk (flat 0x00)) ∧
    decodeTableWord 8 0x03 = some (.decblk (flat 0x00)) ∧
    decodeTableWord 8 0x04 = some (.gfmul 0x00 0x00) ∧
    decodeTableWord 8 0x05 = some (.sbox 0x00) ∧
    decodeTableWord 8 0x06 = some (.isbox 0x00) ∧
    decodeTableWord 8 0x07 = some (.rdrk 0) ∧
    decodeTableWord 8 0x08 = some .status ∧
    decodeTableWord 8 0x00 = none ∧
    decodeTableWord 16 0x2b07 = some (.rdrk 43) := by decide

/-- step fetches the table's word: STATUS as the first command after reset answers `00 00` (R210). -/
theorem test_fetch_word : after (step (State.reset.withFetchWord 8 0x08)) State.rspOut = some [[0x00, 0x00]] := by decide

/-! ## One step per command (95_test_vectors.md) -/

/-- Section 2.3: all 44 words of the known-answer key; STATUS afterwards is 01 (section 2.5). -/
theorem test_loadkey_schedule :
    after (step (State.reset.withFrame (0x01 :: key))) (fun t => (t.w, t.statusReg, t.rspOut)) =
      some (knownWords.map some, 0x01, [[0x00]]) := by decide +kernel

/-- Section 2.7, last row: the failed LOADKEY of 17 bytes destroys the schedule; STATUS afterwards is 02. -/
theorem test_loadkey_wrong_length :
    after (step (keyed.withFrame (0x01 :: List.replicate 17 0x00))) (fun t => (t.w, t.statusReg, t.rspOut)) =
      some (noSchedule, 0x02, [[0x01]]) := by decide +kernel

/-- S2. -/
theorem test_encblk_known_answer : answer keyed (0x02 :: plain.toList) = some [0x00 :: cipher.toList] := by decide +kernel

/-- Section 2.4: no key, and STATUS afterwards is 08. -/
theorem test_encblk_no_key :
    after (step (State.reset.withFrame (0x02 :: (flat 0x00).toList))) (fun t => (t.rspOut, t.statusReg, t.halted)) =
      some ([[0x04]], 0x08, false) := by decide

/-- S2. -/
theorem test_decblk_known_answer : answer keyed (0x03 :: cipher.toList) = some [0x00 :: plain.toList] := by decide +kernel

/-- Section 2.6: the padding block decrypts to sixteen zero bytes. -/
theorem test_decblk_zero_block :
    answer keyed [0x03, 0xc6, 0xa1, 0x3b, 0x37, 0x87, 0x8f, 0x5b, 0x82, 0x6f, 0x4f, 0x81, 0x62, 0xa1, 0xc8, 0xd8, 0x79] =
      some [0x00 :: (flat 0x00).toList] := by decide +kernel

/-- Section 2.1. -/
theorem test_gfmul_reduces : answer State.reset [0x04, 0x0e, 0xca] = some [[0x00, 0x80]] := by decide +kernel

/-- Section 2.5: a successful LOADKEY and then `GFMUL 5, 0` gives STATUS 05. -/
theorem test_gfmul_unsupported :
    after (step (keyed.withFrame [0x04, 0x05, 0x00])) (fun t => (t.rspOut, t.statusReg, t.halted)) =
      some ([[0x02]], 0x05, true) := by decide +kernel

/-- Section 2.2: row 1, column 0 (guards against a transposed table), and the last entry. -/
theorem test_sbox_entries :
    answer State.reset [0x05, 0x10] = some [[0x00, 0xca]] ∧ answer State.reset [0x05, 0xff] = some [[0x00, 0x16]] := by
  decide +kernel

/-- Section 2.2. -/
theorem test_isbox_entries :
    answer State.reset [0x06, 0xca] = some [[0x00, 0x10]] ∧ answer State.reset [0x06, 0xff] = some [[0x00, 0x7d]] := by
  decide +kernel

/-- Section 2.5. -/
theorem test_rdrk_words :
    answer keyed [0x07, 0x04] = some [[0x00, 0xd6, 0xaa, 0x74, 0xfd]] ∧
    answer keyed [0x07, 0x2b] = some [[0x00, 0x4d, 0x2b, 0x30, 0xc5]] := by decide +kernel

/-- Section 2.5: before any LOADKEY `RDRK 0` is KeyNotReady and `RDRK 44` IllegalCommand (R249). -/
theorem test_rdrk_no_key :
    answer State.reset [0x07, 0x00] = some [[0x04]] ∧ answer State.reset [0x07, 0x2c] = some [[0x05]] := by decide

/-- Section 2.7, tenth row: STATUS on a halted core; section 2.5, third row from the bottom. -/
theorem test_status_halted :
    answer halted [0x08] = some [[0x00, 0x04]] ∧ answer halted [0x08, 0x02] = some [[0x06]] := by decide

/-- Section 2.7, ninth row: an illegal frame on a halted core is refused and sets no bit (R246). -/
theorem test_halted_illegal :
    after (step (halted.withFrame [0xff])) (fun t => (t.rspOut, t.errIllegalCmd)) = some ([[0x06]], false) := by decide

/-- R282: with the reset signal asserted the pending frame is dropped and not answered. -/
theorem test_reset_drops_frame :
    after (step { keyed with cmdIn := [[0x08]], resetIn := true }) (fun t => (t.cmdIn, t.rspOut, t.statusReg)) =
      some ([], [], 0x00) := by decide

/-! ## Micro-operations (95_test_vectors.md sections 2.2 and 2.4) -/

theorem test_sub_bytes :
    blockOfMatrix (subBytes (matrixOfBlock (blockOfList key rfl))) =
      #v[0x63, 0x7c, 0x77, 0x7b, 0xf2, 0x6b, 0x6f, 0xc5, 0x30, 0x01, 0x67, 0x2b, 0xfe, 0xd7, 0xab, 0x76] := by
  decide +kernel

theorem test_shift_rows :
    blockOfMatrix (shiftRows (matrixOfBlock (blockOfList key rfl))) =
      #v[0x00, 0x05, 0x0a, 0x0f, 0x04, 0x09, 0x0e, 0x03, 0x08, 0x0d, 0x02, 0x07, 0x0c, 0x01, 0x06, 0x0b] := by
  decide +kernel

theorem test_inv_shift_rows :
    blockOfMatrix (invShiftRows (matrixOfBlock (blockOfList key rfl))) =
      #v[0x00, 0x0d, 0x0a, 0x07, 0x04, 0x01, 0x0e, 0x0b, 0x08, 0x05, 0x02, 0x0f, 0x0c, 0x09, 0x06, 0x03] := by
  decide +kernel

theorem test_mix_column :
    mixColumn ⟨0xf2, 0x0a, 0x22, 0x5c⟩ = ⟨0x9f, 0xdc, 0x58, 0x9d⟩ ∧ mixColumn ⟨0xff, 0, 0, 0⟩ = ⟨0xe5, 0xff, 0xff, 0x1a⟩ := by
  decide +kernel

/-- Round 1 of the known-answer encryption. -/
theorem test_round_one :
    blockOfMatrix (encRoundOn knownWords 1 (matrixOfBlock
      #v[0x00, 0x10, 0x20, 0x30, 0x40, 0x50, 0x60, 0x70, 0x80, 0x90, 0xa0, 0xb0, 0xc0, 0xd0, 0xe0, 0xf0])) =
      #v[0x89, 0xd8, 0x10, 0xe8, 0x85, 0x5a, 0xce, 0x68, 0x2d, 0x18, 0x43, 0xd8, 0xcb, 0x12, 0x8f, 0xe4] := by
  decide +kernel

/-! ## The host's driver (95_test_vectors.md section 2.6) -/

theorem test_pad_aligned : (pad (List.replicate 32 0x00)).length = 48 ∧ (pad []).length = 16 ∧
    pad key = key ++ List.replicate 16 0x00 := by decide
/-- ENCRYPT of the one byte 41. -/
theorem test_encrypt_one_byte :
    (match encryptBuffer Config.params [0x41] keyed with | .next (_, .ok out) => some out | _ => none) =
      some [0xf7, 0xb2, 0x41, 0x1d, 0x5e, 0xa6, 0xa8, 0x32, 0xf6, 0x24, 0x47, 0xfb, 0x44, 0xcf, 0xaf, 0xbf] := by
  decide +kernel
/-- S6: DECRYPT of five bytes. -/
theorem test_decrypt_five_bytes :
    (match decryptBuffer Config.params [1, 2, 3, 4, 5] keyed with | .next (s, .error e) => some (decide (s = keyed), e) | _ => none) =
      some (true, .malformedCiphertext) := by decide +kernel

/-- Section 2.6, second row, from reset: the first use loads the manager's key and then encrypts (R220). -/
theorem test_manager_first_use :
    (match CipherManager.encrypt Config.params [0x41] (.new (blockOfList key rfl)) State.reset with
      | .next (m, t, .ok out) => some (m.schedule, t.w, t.rspOut, out) | _ => none) =
      some (.created, knownWords.map some, [],
        [0xf7, 0xb2, 0x41, 0x1d, 0x5e, 0xa6, 0xa8, 0x32, 0xf6, 0x24, 0x47, 0xfb, 0x44, 0xcf, 0xaf, 0xbf]) := by
  decide +kernel
/-- The second use sends no LOADKEY: a manager with another key leaves the core's words alone (R220, R287). -/
theorem test_manager_second_use :
    (match CipherManager.encrypt Config.params [0x41] ⟨flat 0x00, .created⟩ keyed with
      | .next (m, t, .ok _) => some (m, t.w) | _ => none) =
      some (⟨flat 0x00, .created⟩, knownWords.map some) := by
  decide +kernel
/-- After a halt the host resets and a new manager starts up again (R281, R290). -/
theorem test_manager_restart :
    (match CipherManager.restart Config.params ⟨flat 0x00, .failed (.coreStatus 0x06)⟩ halted with
      | .next (m, t) => some (m, t.statusReg, t.resetIn) | _ => none) =
      some (.new (flat 0x00), 0x00, false) := by decide +kernel

/-! ## Witnesses: for every statement with hypotheses, a state and operands that meet all of them -/

theorem witness_decode_of_encode :
    (Instr.rdrk 43).wf Config.params = true ∧ (Instr.loadkey (List.replicate 255 0x00)).wf Config.params = true ∧
    (Instr.gfmul 0xff 0xff).wf Config.params = true ∧ (Instr.encblk (flat 0xff)).wf Config.params = true := by decide +kernel
theorem witness_encode_of_decode : decode { payloadMax := 16, hasRdrk := false } [0x05, 0xff] = .ok (.sbox 0xff) := by decide
/-- Each clause at a boundary: index 43 decodes, 44 does not; lengths 16. -/
theorem witness_decode_by_opcode_and_length :
    Config.params.hasRdrk = true ∧ (flat 0xff).toList.length = 16 ∧ (0x2b#8).toNat < 44 ∧ ¬ (0x2c#8).toNat < 44 ∧
    decode Config.params [0x07, 0x2b] = .ok (.rdrk 43) := by decide
theorem witness_illegal_frames :
    decode Config.params [0x08, 0x00] = .error .payloadLength ∧ decode Config.params [0x07, 0x2c] = .error .wordIndex := by
  decide
theorem witness_reset_signal : ({ keyed with resetIn := true } : State).resetIn = true := by decide
/-- A state under the invariant, with a schedule, whose step answers a next state. -/
theorem witness_every_step_keeps_invariant :
    ∃ s t, Inv s ∧ s.ksValid = true ∧ s.cmdIn ≠ [] ∧ step s = .next t :=
  ⟨keyed.withFrame [0x05, 0x53], _, ⟨keyed_inv.1, keyed_inv.2, keyed_inv.3, keyed_inv.4, keyed_inv.5⟩, rfl, by decide, rfl⟩
theorem witness_no_step_stops : Inv State.reset ∧ Inv keyed := by
  refine ⟨⟨rfl, nofun, fun _ => (by decide), nofun, nofun⟩, keyed_inv⟩
/-- Both ways to meet the third hypothesis: not halted, and halted with STATUS. -/
theorem witness_step_runs_decoded_command :
    ((State.reset.withFrame [0x05, 0x53]).Takes [0x05, 0x53] [] ∧
      decode Config.params [0x05, 0x53] = .ok (.sbox 0x53) ∧ (State.reset.withFrame [0x05, 0x53]).halted = false) ∧
    ((halted.withFrame [0x08]).Takes [0x08] [] ∧ decode Config.params [0x08] = .ok .status ∧
      (halted.withFrame [0x08]).halted = true) := by decide
/-- Each clause: a frame that is not STATUS (a legal one, an illegal one, a STATUS with a payload), and STATUS. -/
theorem witness_halted_core :
    halted.halted = true ∧ halted.resetIn = false ∧
    (halted.withFrame [0x05, 0x05]).cmdIn = [0x05, 0x05] :: [] ∧ [0x05#8, 0x05#8] ≠ [0x08#8] ∧
    (halted.withFrame [0xff]).cmdIn = [0xff] :: [] ∧ (halted.withFrame [0x08, 0x02]).cmdIn = [0x08, 0x02] :: [] ∧
    (halted.withFrame [0x08]).cmdIn = [0x08] :: [] := by decide
theorem witness_illegal_frame :
    (State.reset.withFrame [0xff]).Takes [0xff] [] ∧ (State.reset.withFrame [0xff]).halted = false ∧
    decode Config.params [0xff] = .error .unknownOpcode := by decide
/-- One state and frame for each status of R249: 06, 05, 01, 02, 04, 00. -/
theorem witness_response_status :
    answer halted [0xff] = some [[0x06]] ∧ answer State.reset [0x07, 0x2c] = some [[0x05]] ∧
    answer State.reset [0x01] = some [[0x01]] ∧ answer State.reset [0x04, 0x00, 0x00] = some [[0x02]] ∧
    answer State.reset [0x07, 0x2b] = some [[0x04]] ∧ answer State.reset [0x08] = some [[0x00, 0x00]] := by decide +kernel
theorem witness_waiting : State.reset.resetIn = false ∧ State.reset.cmdIn = [] := by decide
theorem witness_one_response : (State.reset.withFrame [0x08]).Takes [0x08] [] ∧
    ∃ t, step (State.reset.withFrame [0x08]) = .next t := ⟨by decide, _, rfl⟩
/-- A state with a sticky bit set and one with none, each answering a next state; the last clause on a frame answered OK. -/
theorem witness_error_bits_sticky :
    (halted.withFrame [0x08]).resetIn = false ∧ (halted.withFrame [0x08]).errUnsupportedOp = true ∧
    (∃ t, step (halted.withFrame [0x08]) = .next t ∧ t.rspOut = halted.rspOut ++ [[0x00, 0x04]]) ∧
    (∃ t, step (State.reset.withFrame [0x00]) = .next t) := ⟨rfl, rfl, ⟨_, rfl, rfl⟩, ⟨_, rfl⟩⟩
theorem witness_only_loadkey_writes_schedule :
    (keyed.withFrame [0x08]).resetIn = false ∧ (∀ k rest, (keyed.withFrame [0x08]).cmdIn ≠ (0x01#8 :: k) :: rest) ∧
    ∃ t, step (keyed.withFrame [0x08]) = .next t := ⟨rfl, by simp [State.withFrame], _, rfl⟩
/-- A fatal error (answered Halted the second time) and one that is not. -/
theorem witness_repeated_frame :
    ({ State.reset with cmdIn := [[0x04, 0x05, 0x00], [0x04, 0x05, 0x00]] } : State).Takes [0x04, 0x05, 0x00] [[0x04, 0x05, 0x00]] ∧
    (∃ t, step { State.reset with cmdIn := [[0x04, 0x05, 0x00], [0x04, 0x05, 0x00]] } = .next t ∧ t.rspOut = [[0x02]]) ∧
    ({ State.reset with cmdIn := [[0x07, 0x00], [0x07, 0x00]] } : State).Takes [0x07, 0x00] [[0x07, 0x00]] ∧
    (∃ t, step { State.reset with cmdIn := [[0x07, 0x00], [0x07, 0x00]] } = .next t ∧ t.rspOut = [[0x04]]) :=
  ⟨⟨rfl, rfl⟩, ⟨_, rfl, rfl⟩, ⟨rfl, rfl⟩, ⟨_, rfl, rfl⟩⟩
/-- Every command answers a next state somewhere: those with no hypothesis on the schedule here, the others below. -/
theorem witness_commands_write_only_their_state :
    (∃ t, exec (.loadkey []) State.reset = .next t) ∧ (∃ t, exec (.encblk (flat 0)) State.reset = .next t) ∧
    (∃ t, exec (.decblk (flat 0)) State.reset = .next t) ∧ (∃ t, exec (.gfmul 0 0) State.reset = .next t) ∧
    (∃ t, exec (.sbox 0) State.reset = .next t) ∧ (∃ t, exec (.isbox 0) State.reset = .next t) ∧
    (∃ t, exec (.rdrk 43) State.reset = .next t) ∧ (∃ t, exec .status State.reset = .next t) :=
  ⟨⟨_, rfl⟩, ⟨_, rfl⟩, ⟨_, rfl⟩, ⟨_, rfl⟩, ⟨_, rfl⟩, ⟨_, rfl⟩, ⟨_, rfl⟩, ⟨_, rfl⟩⟩
theorem witness_status : (halted.withFrame [0x08]).Takes [0x08] [] := ⟨rfl, rfl⟩
/-- The first and the last word. -/
theorem witness_rdrk : keyed.ksValid = true ∧ keyed.w.get 0 = some 0x00010203 ∧ keyed.w.get 43 = some 0x4d2b30c5 := by
  decide +kernel
theorem witness_no_schedule : State.reset.ksValid = false ∧ ((∃ b, Instr.rdrk 43 = .encblk b) ∨
    (∃ b, Instr.rdrk 43 = .decblk b) ∨ ∃ j, Instr.rdrk 43 = .rdrk j) := ⟨rfl, .inr (.inr ⟨43, rfl⟩)⟩
/-- The constants at the ends of the supported set, and the unsupported ones next to them (R112). -/
theorem witness_mul_constants :
    (1 : Byte) ∈ mulConstants ∧ (14 : Byte) ∈ mulConstants ∧ (0 : Byte) ∉ mulConstants ∧ (15 : Byte) ∉ mulConstants ∧
    (10 : Byte) ∉ mulConstants := by decide
theorem witness_unsupported_constant :
    (∃ t, exec (.gfmul 5 0) State.reset = .next t ∧ t.errUnsupportedOp = true) ∧ State.reset.errUnsupportedOp = false :=
  ⟨⟨_, rfl, rfl⟩, rfl⟩
/-- Lengths 16, and 0, 15 and 17 of R151. -/
theorem witness_loadkey : key.length = 16 ∧ ([] : List Byte).length ≠ 16 ∧ (List.replicate 15 (0 : Byte)).length ≠ 16 ∧
    (List.replicate 17 (0 : Byte)).length ≠ 16 := by decide
theorem witness_schedule_depends_on_key :
    ∃ t₁ t₂, exec (.loadkey key) State.reset = .next t₁ ∧ exec (.loadkey (List.replicate 16 0)) halted = .next t₂ := by
  obtain ⟨_, _, _, _, _, _, h₁⟩ | ⟨h, _⟩ := execLoadkey_next key State.reset
  · obtain ⟨_, _, _, _, _, _, h₂⟩ | ⟨h, _⟩ := execLoadkey_next (List.replicate 16 0) halted
    · exact ⟨_, _, h₁, h₂⟩
    · exact absurd (by decide) h
  · exact absurd (by decide) h
theorem witness_block_command : keyed.ksValid = true ∧ keyed.Holds knownWords := ⟨rfl, keyed_holds⟩
theorem witness_core_decrypts : Inv keyed ∧ keyed.ksValid = true := ⟨keyed_inv, rfl⟩
/-- On a core that holds the schedule both block commands answer a next state. -/
theorem block_commands_answer {s : State} (hk : s.ksValid = true) (h : s.Holds knownWords) (b : Block) :
    (∃ t, exec (.encblk b) s = .next t) ∧ ∃ t, exec (.decblk b) s = .next t :=
  ⟨⟨_, (if_pos hk).trans (transformBlock_holds h .encrypt encRound encOrder b)⟩,
   ⟨_, (if_pos hk).trans (transformBlock_holds h .decrypt decRound decOrder b)⟩⟩
/-- Two states with the same schedule that differ elsewhere, each answering a next state to both block commands. -/
theorem witness_block_answer :
    keyed.w = ({ keyed with errIllegalCmd := true } : State).w ∧
    keyed.ksValid = ({ keyed with errIllegalCmd := true } : State).ksValid ∧
    ((∃ t, exec (.encblk plain) keyed = .next t) ∧ ∃ t, exec (.decblk plain) keyed = .next t) ∧
    ((∃ t, exec (.encblk plain) { keyed with errIllegalCmd := true } = .next t) ∧
      ∃ t, exec (.decblk plain) { keyed with errIllegalCmd := true } = .next t) :=
  ⟨rfl, rfl, block_commands_answer rfl keyed_holds plain,
    block_commands_answer (s := { keyed with errIllegalCmd := true }) rfl keyed_holds plain⟩
theorem witness_known_answer :
    ScheduleOf #v[0, 1, 2, 3, 4, 5, 6, 7, 8, 9, 10, 11, 12, 13, 14, 15] knownWords := by
  unfold ScheduleOf; decide +kernel
theorem witness_driver : Config.params.Wf ∧ keyed.Serving knownWords :=
  ⟨by decide, rfl, rfl, rfl, rfl, keyed_holds⟩
/-- The first use on a core after reset, and on one that holds another schedule. -/
theorem witness_first_use : Config.params.Wf ∧ State.reset.Ready ∧ keyed.Ready := by decide
/-- A manager that was used, on a waiting core, with an operation that ends: after a schedule and after a failure. -/
theorem witness_loadkey_not_sent_again :
    keyed.resetIn = false ∧ keyed.cmdIn = [] ∧
    (⟨flat 0x00, .created⟩ : CipherManager).schedule ≠ .absent ∧
    (∃ n t r, CipherManager.decrypt Config.params [0x41] ⟨flat 0x00, .created⟩ keyed = .next (n, t, r)) ∧
    (∃ n t r, CipherManager.encrypt Config.params [0x41] ⟨flat 0x00, .failed .noResponse⟩ keyed = .next (n, t, r)) :=
  ⟨rfl, rfl, by decide, ⟨_, _, _, rfl⟩, ⟨_, _, _, rfl⟩⟩
/-- A first LOADKEY that ends in an error on a core that is not halted: reset cuts it off (R282), and the core it leaves differs
from one that had then been sent a block command. -/
theorem witness_driver_loadkey_error :
    ∃ t, loadKey Config.params (flat 0x00) { keyed with resetIn := true } = .next (t, .error .noResponse) ∧
      t.errKeyNotReady = false ∧ t.halted = false := ⟨_, rfl, rfl, rfl⟩
/-- A halted core that waits, a whole block, and the lengths around it. -/
theorem witness_driver_stops :
    Config.params.Wf ∧ halted.resetIn = false ∧ halted.cmdIn = [] ∧ halted.halted = true ∧
    (List.replicate 16 (0 : Byte)).length % 16 = 0 ∧ List.replicate 16 (0 : Byte) ≠ [] ∧
    (List.replicate 15 (0 : Byte)).length % 16 ≠ 0 := by decide
theorem witness_malformed : ([1, 2, 3, 4, 5] : List Byte).length % 16 ≠ 0 ∧ (List.replicate 15 (0 : Byte)).length % 16 ≠ 0 ∧
    (List.replicate 17 (0 : Byte)).length % 16 ≠ 0 := by decide

end Sys2Proof.Tests
end

section
/-!
SUPPORT. What every command does to the state, in one inversion lemma (`exec_effect`), and what follows from it for each part of
the state (10_state.md R21, R26, R30; 60_exceptions.md R240).
-/

namespace Sys2Proof.Machine

/-- What a command that answers a next state did to the state `s`: one constructor for a LOADKEY that fills W, one for a block
command that ran, one for an answer that writes nothing, and one for each error a command raises by itself
(42 R158; 43 R188, R189; 60 R240). -/
inductive CommandEffect (s : State) : Instr → State → Prop
  | scheduleLoaded {key : List Byte} (hlen : key.length = 16) {w : Vector (Option Word) 44} {ws : Vector Word 44}
      (k : BitVec 6) (hw : ∀ j : Fin 44, w.get j = some (ws.get j)) (hs : ScheduleOf (blockOfList key hlen) ws) :
      CommandEffect s (.loadkey key) { s with
        w := w, ksValid := true, ki := k, freeIdx := s.freeIdx + 1, rspOut := s.rspOut ++ [[0x00#8]] }
  | keyRejected {key : List Byte} (hlen : key.length ≠ 16) :
      CommandEffect s (.loadkey key) (s.dropSchedule.raise .invalidKey)
  | blockAnswered {i : Instr} (hi : ∃ b, i = .encblk b ∨ i = .decblk b) (hown : ownStatus s i = .ok) (c : Block) :
      CommandEffect s i { s with
        block := none
        rnd := Config.freeRnd s.freeIdx
        dir := Config.freeDir s.freeIdx
        freeIdx := s.freeIdx + 1
        rspOut := s.rspOut ++ [0x00#8 :: c.toList] }
  | answered {i : Instr} {bytes : List Byte} (hi : ∀ key, i ≠ .loadkey key) (hown : ownStatus s i = .ok) :
      CommandEffect s i (s.respond .ok bytes)
  | keyNotReady {i : Instr} (hi : ∀ key, i ≠ .loadkey key) (hown : ownStatus s i = .keyNotReady) :
      CommandEffect s i (s.raise .keyNotReady)
  | unsupported {c x : Byte} (hc : c ∉ mulConstants) :
      CommandEffect s (.gfmul c x) (s.raise .unsupportedOperation)

/-- A block command with a schedule has the effect of a block command that ran. -/
theorem transformBlock_effect {d : Direction} {round : Fin 11 → List MicroOp} {order : List (Fin 11)} {b : Block}
    {i : Instr} {s t : State} (hi : ∃ b, i = .encblk b ∨ i = .decblk b) (hown : ownStatus s i = .ok)
    (h : transformBlock d round order b s = .next t) : CommandEffect s i t := by
  obtain ⟨c, rfl⟩ := transformBlock_frame h
  exact .blockAnswered hi hown c

/-- Every next state a command answers is one of the effects. -/
theorem exec_effect {i : Instr} {s t : State} (h : exec i s = .next t) : CommandEffect s i t := by
  cases i with
  | loadkey key =>
    change execLoadkey key s = .next t at h
    obtain ⟨hlen, w, ws, k, hw, hs, e⟩ | ⟨hlen, e⟩ := execLoadkey_next key s
    · cases e.symm.trans h; exact .scheduleLoaded hlen k hw hs
    · cases e.symm.trans h; exact .keyRejected hlen
  | encblk b =>
    change execEncblk b s = .next t at h
    unfold execEncblk at h
    split at h
    · next hk => exact transformBlock_effect ⟨b, .inl rfl⟩ (if_pos hk) h
    · next hk => cases h; exact .keyNotReady nofun (if_neg hk)
  | decblk b =>
    change execDecblk b s = .next t at h
    unfold execDecblk at h
    split at h
    · next hk => exact transformBlock_effect ⟨b, .inr rfl⟩ (if_pos hk) h
    · next hk => cases h; exact .keyNotReady nofun (if_neg hk)
  | gfmul c x =>
    change execGfmul c x s = .next t at h
    have hc := mul_isSome c x
    unfold execGfmul at h
    split at h
    · next hm => cases h; exact .answered nofun (if_pos (hc.mp (by simp [hm])))
    · next hm => cases h; exact .unsupported fun hmem => by simpa [hm] using hc.mpr hmem
  | sbox b => cases h; exact .answered nofun rfl
  | isbox b => cases h; exact .answered nofun rfl
  | rdrk j =>
    change execRdrk j s = .next t at h
    unfold execRdrk at h
    split at h
    · next hk =>
      obtain ⟨v, -, h⟩ := readW_eq_next.mp h
      cases h; exact .answered nofun (if_pos hk)
    · next hk => cases h; exact .keyNotReady nofun (if_neg hk)
  | status => cases h; exact .answered nofun rfl

variable {s t : State} {i : Instr}

/-- No command writes the command stream or the reset signal. -/
theorem CommandEffect.inputs_unchanged (h : CommandEffect s i t) : t.cmdIn = s.cmdIn ∧ t.resetIn = s.resetIn := by
  cases h <;> simp

/-- Only LOADKEY writes W, KS_VALID and KI. -/
theorem CommandEffect.schedule_unchanged (h : CommandEffect s i t) (hi : ∀ key, i ≠ .loadkey key) :
    t.w = s.w ∧ t.ksValid = s.ksValid ∧ t.ki = s.ki := by
  cases h with
  | scheduleLoaded => exact absurd rfl (hi _)
  | keyRejected => exact absurd rfl (hi _)
  | blockAnswered | answered | keyNotReady | unsupported => simp

/-- Only ENCBLK and DECBLK write STATE, RND and DIR. -/
theorem CommandEffect.block_unchanged (h : CommandEffect s i t) (hi : ∀ b, i ≠ .encblk b ∧ i ≠ .decblk b) :
    t.block = s.block ∧ t.rnd = s.rnd ∧ t.dir = s.dir := by
  cases h with
  | blockAnswered hblock =>
    obtain ⟨b, rfl | rfl⟩ := hblock
    · exact absurd rfl (hi b).1
    · exact absurd rfl (hi b).2
  | scheduleLoaded | keyRejected | answered | keyNotReady | unsupported => simp

/-- Each ERR bit is set by its own cause and kept otherwise (60 R240); IllegalCommand is no command's. -/
theorem CommandEffect.errors (h : CommandEffect s i t) :
    t.errInvalidKey = (s.errInvalidKey || decide (ownStatus s i = .invalidKey)) ∧
    t.errUnsupportedOp = (s.errUnsupportedOp || decide (ownStatus s i = .unsupportedOperation)) ∧
    t.errKeyNotReady = (s.errKeyNotReady || decide (ownStatus s i = .keyNotReady)) ∧
    t.errIllegalCmd = s.errIllegalCmd := by
  cases h with
  | scheduleLoaded hlen => simp [ownStatus, hlen]
  | keyRejected hlen => simp [ownStatus, hlen]
  | blockAnswered _ hown => simp [hown]
  | answered _ hown => simp [hown]
  | keyNotReady _ hown => simp [hown]
  | unsupported hc => simp [ownStatus, hc]

/-- Without LOADKEY no command raises InvalidKey. -/
theorem ownStatus_ne_invalidKey (s : State) (hi : ∀ key, i ≠ .loadkey key) : ownStatus s i ≠ .invalidKey := by
  cases i with
  | loadkey key => exact absurd rfl (hi key)
  | sbox | isbox | status => simp [ownStatus]
  | encblk | decblk | gfmul | rdrk => simp only [ownStatus]; split <;> simp

/-- A frame that decodes to LOADKEY is the opcode 0x01 and the key (30_encoding.md R84). -/
theorem decode_eq_loadkey {p : Params} {f : Frame} {key : List Byte} (h : decode p f = .ok (.loadkey key)) :
    f = 0x01#8 :: key := by
  cases f with
  | nil => cases h
  | cons op payload =>
    obtain ⟨rfl, rfl, -⟩ := decodePayload_ok h
    rfl

end Sys2Proof.Machine
end

section
/-!
SUPPORT. The invariant of the core: the reset state meets it, every step keeps it, and under it every step answers.
-/

namespace Sys2Proof.Machine

variable {s t : State} {i : Instr}

/-- A state without a schedule, without an InvalidKey and with nothing emitted meets the invariant. -/
theorem Inv.of_empty (hblock : s.block = none) (hw : s.w = noSchedule) (hk : s.ksValid = false)
    (herr : s.errInvalidKey = false) (hrsp : s.rspOut = []) : Inv s where
  block_void := hblock
  schedule := by simp [hk]
  no_schedule := fun _ j => by simp [hw, noSchedule, Vector.get_eq_getElem]
  invalid_key := by simp [herr]
  responses := by simp [hrsp]

/-- The invariant carries over to a state with the same schedule and InvalidKey bit. -/
theorem Inv.of_same_schedule (hs : Inv s) (hw : t.w = s.w) (hk : t.ksValid = s.ksValid)
    (herr : t.errInvalidKey = s.errInvalidKey) (hblock : t.block = none) (hrsp : ∀ q ∈ t.rspOut, ResponseWf q) :
    Inv t where
  block_void := hblock
  schedule := by simpa only [hk, State.Holds, hw] using hs.schedule
  no_schedule := by simpa only [hk, hw] using hs.no_schedule
  invalid_key := by simpa only [hk, herr] using hs.invalid_key
  responses := hrsp

/-- One well-formed response more keeps the responses well formed. -/
theorem Inv.responses_append (hs : Inv s) {q : Frame} (hq : ResponseWf q) : ∀ r ∈ s.rspOut ++ [q], ResponseWf r :=
  List.forall_mem_append.mpr ⟨hs.responses, by simpa using hq⟩

/-- Taking a frame from the command stream is not visible to the invariant. -/
theorem Inv.set_cmdIn (hs : Inv s) (rest : List Frame) : Inv { s with cmdIn := rest } :=
  hs.of_same_schedule rfl rfl rfl hs.block_void hs.responses

/-- A command keeps the invariant. LOADKEY must not run on a halted core, where an earlier InvalidKey would stay beside the new
schedule. -/
theorem exec_keeps_inv (hs : Inv s) (hrun : s.halted = false ∨ i = .status) (h : exec i s = .next t) : Inv t := by
  obtain ⟨q, hrsp, hq, -, -, hblock, -⟩ := exec_frame h
  have hvoid : t.block = none := hblock hs.block_void
  have hresp : ∀ r ∈ t.rspOut, ResponseWf r := hrsp ▸ hs.responses_append hq
  have heff := exec_effect h
  by_cases hi : ∀ key, i ≠ .loadkey key
  · obtain ⟨hw, hk, -⟩ := heff.schedule_unchanged hi
    exact hs.of_same_schedule hw hk (by simp [heff.errors.1, ownStatus_ne_invalidKey s hi]) hvoid hresp
  · simp only [not_forall, not_not] at hi
    obtain ⟨key, rfl⟩ := hi
    cases heff with
    | scheduleLoaded hlen k hw hsched =>
      have hnohalt : s.halted = false := hrun.resolve_right nofun
      have herr : s.errInvalidKey = false := (Bool.or_eq_false_iff.mp hnohalt).1
      exact ⟨hvoid, fun _ => ⟨_, _, hw, hsched⟩, nofun, by simp [herr], hresp⟩
    | keyRejected => exact ⟨hvoid, nofun, fun _ => s.dropSchedule_get, fun _ => rfl, hresp⟩
    | answered hne => exact absurd rfl (hne key)
    | keyNotReady hne => exact absurd rfl (hne key)
    | blockAnswered hblk => obtain ⟨b, hb | hb⟩ := hblk <;> cases hb

/-- Handling a frame keeps the invariant. -/
theorem runFrame_keeps_inv {p : Params} {f : Frame} (hs : Inv s) (h : runFrame p f s = .next t) : Inv t := by
  obtain ⟨-, -, rfl⟩ | ⟨-, -, rfl⟩ | ⟨i, -, hrun, hexec⟩ := runFrame_cases h
  · exact hs.of_same_schedule rfl rfl rfl hs.block_void (hs.responses_append (by simp [ResponseWf, codeOf]))
  · exact hs.of_same_schedule rfl rfl rfl hs.block_void (hs.responses_append (by simp [ResponseWf, codeOf, statusOf]))
  · exact exec_keeps_inv hs hrun hexec

/-- A step keeps the invariant, for all parameters. -/
theorem coreStep_keeps_inv {p : Params} (hs : Inv s) (h : coreStep p s = .next t) : Inv t := by
  obtain ⟨-, rfl⟩ | ⟨-, -, rfl⟩ | ⟨f, rest, -, hframe⟩ := coreStep_cases h
  · exact Inv.of_empty rfl rfl rfl rfl rfl
  · exact hs
  · exact runFrame_keeps_inv (hs.set_cmdIn rest) hframe

/-- A command answers a next state when KS_VALID = 1 means that every word has a value: no read of W or STATE stops. -/
theorem exec_next (i : Instr) (hs : s.ksValid = true → ∃ ws, s.Holds ws) : ∃ t, exec i s = .next t := by
  cases i with
  | loadkey key =>
    obtain ⟨_, w, ws, k, -, -, e⟩ | ⟨-, e⟩ := execLoadkey_next key s
    · exact ⟨_, e⟩
    · exact ⟨_, e⟩
  | encblk b =>
    cases hk : s.ksValid with
    | false => exact ⟨_, execEncblk_noKey hk b⟩
    | true =>
      obtain ⟨ws, hws⟩ := hs hk
      exact ⟨_, (if_pos hk).trans (transformBlock_holds hws .encrypt encRound encOrder b)⟩
  | decblk b =>
    cases hk : s.ksValid with
    | false => exact ⟨_, execDecblk_noKey hk b⟩
    | true =>
      obtain ⟨ws, hws⟩ := hs hk
      exact ⟨_, (if_pos hk).trans (transformBlock_holds hws .decrypt decRound decOrder b)⟩
  | gfmul c x =>
    change ∃ t, execGfmul c x s = .next t
    unfold execGfmul
    split
    · exact ⟨_, rfl⟩
    · exact ⟨_, rfl⟩
  | sbox b => exact ⟨_, rfl⟩
  | isbox b => exact ⟨_, rfl⟩
  | rdrk j =>
    cases hk : s.ksValid with
    | false => exact ⟨_, execRdrk_noKey hk j⟩
    | true =>
      obtain ⟨ws, hws⟩ := hs hk
      exact ⟨_, (if_pos hk).trans (readW_of_some (hws j) _)⟩
  | status => exact ⟨_, rfl⟩

/-- Handling a frame answers a next state when every command does. -/
theorem runFrame_next (p : Params) (f : Frame) (hexec : ∀ i, ∃ t, exec i s = .next t) :
    ∃ t, runFrame p f s = .next t := by
  unfold runFrame
  split
  · split
    · exact ⟨_, rfl⟩
    · exact hexec _
  · split
    · exact ⟨_, rfl⟩
    · exact ⟨_, rfl⟩

/-- Under the invariant a step answers a next state, for all parameters. -/
theorem coreStep_next (p : Params) (hs : Inv s) : ∃ t, coreStep p s = .next t := by
  unfold coreStep
  split
  · exact ⟨_, rfl⟩
  · split
    · exact ⟨_, rfl⟩
    · next f rest _ =>
      refine runFrame_next p f fun i => exec_next i fun hk => ?_
      obtain ⟨-, ws, hws, -⟩ := hs.schedule hk
      exact ⟨ws, hws⟩

end Sys2Proof.Machine
end

section
/-!
SUPPORT. What a step short of reset does to the ERR bits (10_state.md R32).
-/

namespace Sys2Proof.Machine

variable {s t : State}

/-- What a step short of reset does to the ERR bits: nothing, or it raises one error and answers with that error's status. -/
theorem coreStep_errors {p : Params} (hreset : s.resetIn = false) (h : coreStep p s = .next t) :
    SameErrors s t ∨ ∃ e, t.rspOut = s.rspOut ++ [[codeOf (statusOf e)]] ∧ SameErrors (s.setError e) t := by
  obtain ⟨hr, -⟩ | ⟨-, -, rfl⟩ | ⟨f, rest, -, hframe⟩ := coreStep_cases h
  · simp [hreset] at hr
  · exact .inl ⟨rfl, rfl, rfl, rfl⟩
  · obtain ⟨-, -, rfl⟩ | ⟨-, -, rfl⟩ | ⟨i, -, -, hexec⟩ := runFrame_cases hframe
    · exact .inl ⟨rfl, rfl, rfl, rfl⟩
    · exact .inr ⟨.illegalCommand, rfl, rfl, rfl, rfl, rfl⟩
    · obtain ⟨q, hrsp, -, -, -, -, ⟨hsame, -⟩ | ⟨e, rfl, hset⟩⟩ := exec_frame hexec
      · exact .inl hsame
      · exact .inr ⟨e, hrsp, by simpa [SameErrors] using hset⟩

/-- No error answers with the status OK (60 R240). -/
theorem codeOf_statusOf_ne_ok (e : CoreError) : codeOf (statusOf e) ≠ 0x00#8 := by
  cases e <;> decide

end Sys2Proof.Machine
end

section
/-!
PROOFS. The statements about the state (10_state.md): the invariant, the sticky ERR bits and the frame of every command.
-/

namespace Sys2Proof.Machine

/-- Settles O8: nothing has a value after reset. -/
theorem resetMeetsInvariant : Obligations.ResetMeetsInvariant :=
  Inv.of_empty rfl rfl rfl rfl rfl

/-- Settles O9, by the cases of a step and, for a command, by its effect. -/
theorem everyStepKeepsInvariant : Obligations.EveryStepKeepsInvariant :=
  fun _ _ hs h => coreStep_keeps_inv hs h

/-- Settles O10: with a schedule every word has a value, and a block command loads STATE before it reads it. -/
theorem noStepStopsUnderInvariant : Obligations.NoStepStopsUnderInvariant :=
  fun _ hs => coreStep_next _ hs

/-- Settles O17: a step raises at most one error, which clears nothing and answers with a status other than OK. -/
theorem errorBitsAreSticky : Obligations.ErrorBitsAreSticky := by
  intro s t hreset h
  obtain hsame | ⟨e, hrsp, hset⟩ := coreStep_errors hreset h
  · obtain ⟨h1, h2, h3, h4⟩ := hsame
    exact ⟨h1.trans, h2.trans, h3.trans, h4.trans, fun _ _ => ⟨h1, h2, h3, h4⟩⟩
  · obtain ⟨h1, h2, h3, h4⟩ := hset
    refine ⟨fun hb => by simp [h1, hb], fun hb => by simp [h2, hb], fun hb => by simp [h3, hb],
      fun hb => by simp [h4, hb], fun bytes hok => ?_⟩
    have hcode : codeOf (statusOf e) = 0x00#8 ∧ [] = bytes := by simpa using hrsp.symm.trans hok
    exact absurd hcode.1 (codeOf_statusOf_ne_ok e)

/-- Settles O18: a frame whose opcode is not 0x01 decodes to no LOADKEY, and every other command leaves the schedule alone. -/
theorem onlyLoadkeyWritesSchedule : Obligations.OnlyLoadkeyWritesSchedule := by
  intro s t hreset hframe h
  obtain ⟨hr, -⟩ | ⟨-, -, rfl⟩ | ⟨f, rest, ⟨-, hcmd⟩, hrun⟩ := coreStep_cases h
  · simp [hreset] at hr
  · exact ⟨rfl, rfl⟩
  · obtain ⟨-, -, rfl⟩ | ⟨-, -, rfl⟩ | ⟨i, hdec, -, hexec⟩ := runFrame_cases hrun
    · exact ⟨rfl, rfl⟩
    · exact ⟨rfl, rfl⟩
    · have hi : ∀ key, i ≠ .loadkey key := by
        rintro key rfl
        exact hframe key rest (decode_eq_loadkey hdec ▸ hcmd)
      obtain ⟨hw, hk, -⟩ := (exec_effect hexec).schedule_unchanged hi
      exact ⟨hw, hk⟩

/-- Settles O20, by the effect of each command. -/
theorem commandsWriteOnlyTheirState : Obligations.CommandsWriteOnlyTheirState := by
  intro i s t h
  have heff := exec_effect h
  exact ⟨heff.inputs_unchanged.1, heff.inputs_unchanged.2, heff.schedule_unchanged, heff.block_unchanged, heff.errors⟩

end Sys2Proof.Machine
end

section
/-!
SUPPORT. The cells of a loaded block and of a round key (20_memory.md R51, R53), and what handling a frame does to the two
streams (R61; 30_encoding.md R81, R91).
-/

namespace Sys2Proof.Machine

/-- LoadState's mapping read at one cell (R51). -/
@[simp] theorem cell_matrixOfBlock (b : Block) (r c : Fin 4) :
    cell (matrixOfBlock b) r c = b.get ⟨r.val + 4 * c.val, by omega⟩ :=
  cell_matrixFrom _ r c

/-- A round key read at one cell (R53): the column chooses the word, the row its byte. -/
theorem cell_roundKey (ws : Vector Word 44) (k : Fin 11) (r c : Fin 4) :
    cell (roundKey ws k) r c = byteOf (ws.get (roundWord k c)) r := by
  match c with
  | 0 | 1 | 2 | 3 => exact rowOf_columnFrom _ r

/-- A status the core emits is a well-formed response by itself (R90). -/
theorem responseWf_status {c : StatusCode} (hc : c ≠ .malformedCiphertext) : ResponseWf [codeOf c] := by
  cases c with
  | malformedCiphertext => exact absurd rfl hc
  | ok | invalidKey | unsupportedOperation | keyNotReady | illegalCommand | halted => simp [ResponseWf, codeOf]

/-- Handling a frame takes nothing more from the command stream and adds one well-formed response (R61, R81). -/
theorem runFrame_responds {p : Params} {f : Frame} {s t : State} (h : runFrame p f s = .next t) :
    t.cmdIn = s.cmdIn ∧ ∃ q, t.rspOut = s.rspOut ++ [q] ∧ ResponseWf q := by
  obtain ⟨-, -, rfl⟩ | ⟨-, -, rfl⟩ | ⟨i, -, -, hexec⟩ := runFrame_cases h
  · exact ⟨rfl, _, rfl, responseWf_status nofun⟩
  · exact ⟨rfl, _, rfl, responseWf_status nofun⟩
  · obtain ⟨q, hrsp, hq, hcmd, -⟩ := exec_frame hexec
    exact ⟨hcmd, q, hrsp, hq⟩

end Sys2Proof.Machine
end

section
/-!
PROOFS. The statements about the streams and the byte mappings (20_memory.md).
-/

namespace Sys2Proof.Machine

/-- Settles O16: the step takes the frame off its stream and handles it, and each way of handling it answers once. -/
theorem oneResponsePerFrame : Obligations.OneResponsePerFrame := by
  intro s t f rest htakes h
  have hrun : runFrame Config.params f { s with cmdIn := rest } = .next t := (coreStep_takes htakes).symm.trans h
  exact runFrame_responds hrun

/-- Settles O39: `i = i mod 4 + 4 (i div 4)` for the block, and the cells of a round key. -/
theorem blockAndRoundKeyMapping : Obligations.BlockAndRoundKeyMapping := by
  refine ⟨fun b i => ?_, blockOfMatrix_get, cell_roundKey⟩
  have hi : i.val % 4 + 4 * (i.val / 4) = i.val := Nat.mod_add_div i.val 4
  simp [hi]

end Sys2Proof.Machine
end

section
/-!
SUPPORT. The eight frames a command can have, the decoder as the inverse of the encoder (30_encoding.md R82 to R85), and the
command a taken frame runs (R91).
-/

namespace Sys2Proof

@[simp] theorem encode_loadkey (key : List Byte) : encode (.loadkey key) = 0x01#8 :: key := rfl
@[simp] theorem encode_encblk (b : Block) : encode (.encblk b) = 0x02#8 :: b.toList := rfl
@[simp] theorem encode_decblk (b : Block) : encode (.decblk b) = 0x03#8 :: b.toList := rfl
@[simp] theorem encode_gfmul (c s : Byte) : encode (.gfmul c s) = [0x04#8, c, s] := rfl
@[simp] theorem encode_sbox (b : Byte) : encode (.sbox b) = [0x05#8, b] := rfl
@[simp] theorem encode_isbox (b : Byte) : encode (.isbox b) = [0x06#8, b] := rfl
@[simp] theorem encode_rdrk (j : Fin 44) : encode (.rdrk j) = [0x07#8, BitVec.ofNat 8 j.val] := rfl
@[simp] theorem encode_status : encode .status = [0x08#8] := rfl

/-- The index of every RDRK fits its byte. -/
@[simp] theorem wordIndex_mod_256 (j : Fin 44) : j.val % 256 = j.val := Nat.mod_eq_of_lt (by omega)

/-- A block's 16 bytes are read back as the block. -/
@[simp] theorem decodeBlock_toList (mk : Block → Instr) (b : Block) : decodeBlock mk b.toList = .ok (mk b) := by
  simp [decodeBlock]

/-- The index byte of every RDRK is read back, where RDRK is connected. -/
theorem decodeRdrk_index {p : Params} (hr : p.hasRdrk = true) (j : Fin 44) :
    decodeRdrk p [BitVec.ofNat 8 j.val] = .ok (.rdrk j) := by
  simp [decodeRdrk, hr]

/-- The frame of a command decodes to it; only RDRK asks anything of the core. -/
theorem decode_encode {p : Params} {i : Instr} (hr : ∀ j, i = .rdrk j → p.hasRdrk = true) :
    decode p (encode i) = .ok i := by
  cases i with
  | encblk b => exact decodeBlock_toList .encblk b
  | decblk b => exact decodeBlock_toList .decblk b
  | rdrk j => exact decodeRdrk_index (hr j rfl) j
  | loadkey | gfmul | sbox | isbox | status => rfl

/-- The decoder is the inverse of the encoder: the frames that decode are the commands' own, RDRK's where it is connected. -/
theorem decode_eq_ok_iff {p : Params} {f : Frame} {i : Instr} :
    decode p f = .ok i ↔ encode i = f ∧ ∀ j, i = .rdrk j → p.hasRdrk = true := by
  constructor
  · intro h
    cases f with
    | nil => cases h
    | cons op payload =>
      obtain ⟨rfl, rfl, hr⟩ := decodePayload_ok h
      exact ⟨rfl, hr⟩
  · rintro ⟨rfl, hr⟩
    exact decode_encode hr

/-- A well-formed RDRK is one on a core that has it. -/
theorem Instr.hasRdrk_of_wf {p : Params} {i : Instr} (h : i.wf p = true) : ∀ j, i = .rdrk j → p.hasRdrk = true := by
  rintro j rfl
  exact h

/-- R84's lines for the block commands: 16 bytes after the opcode are the block. -/
theorem decode_encblk {p : Params} {l : List Byte} (h : l.length = 16) :
    decode p (0x02#8 :: l) = .ok (.encblk (blockOfList l h)) := dif_pos h

theorem decode_decblk {p : Params} {l : List Byte} (h : l.length = 16) :
    decode p (0x03#8 :: l) = .ok (.decblk (blockOfList l h)) := dif_pos h

/-- R84's line for RDRK: one byte below 44, on a core that has the command. -/
theorem decode_rdrk {p : Params} {b : Byte} (hr : p.hasRdrk = true) (h : b.toNat < 44) :
    decode p [0x07#8, b] = .ok (.rdrk ⟨b.toNat, h⟩) := (if_pos hr).trans (dif_pos h)

/-- A payload after 0x07 that is no RDRK's is too short or long, or its index is too large, or there is no RDRK (R85). -/
theorem rdrk_payload_illegal {p : Params} {l : List Byte}
    (h : ∀ i, decode p (0x07#8 :: l) ≠ .ok i) :
    l.length ≠ 1 ∨ (∃ b : Byte, l = [b] ∧ 44 ≤ b.toNat) ∨ p.hasRdrk = false := by
  by_cases hl : l.length = 1
  · obtain ⟨b, rfl⟩ := List.length_eq_one_iff.mp hl
    rcases Nat.lt_or_ge b.toNat 44 with hb | hb
    · exact .inr (.inr (Bool.eq_false_iff.mpr fun hr => h _ (decode_rdrk hr hb)))
    · exact .inr (.inl ⟨b, rfl, hb⟩)
  · exact .inl hl

/-- The decoder answers a command or an error. -/
theorem exists_decode_error_iff {p : Params} {f : Frame} :
    (∃ e, decode p f = .error e) ↔ ∀ i, decode p f ≠ .ok i := by
  cases decode p f <;> simp

/-- An opcode byte is below, above or one of the eight of R82. -/
theorem opcode_cases (op : Byte) : op = 0x00#8 ∨ 0x09#8 ≤ op ∨ op = 0x01#8 ∨ op = 0x02#8 ∨ op = 0x03#8 ∨ op = 0x04#8 ∨
    op = 0x05#8 ∨ op = 0x06#8 ∨ op = 0x07#8 ∨ op = 0x08#8 := by
  bv_omega

end Sys2Proof

namespace Sys2Proof.Machine

/-- A command that is not refused by a halted core is executed (R91). -/
theorem runFrame_of_decode {p : Params} {f : Frame} {i : Instr} {s : State} (hdec : decode p f = .ok i)
    (hrun : s.halted = false ∨ i = .status) : runFrame p f s = exec i s := by
  have hpass : ¬ (s.halted = true ∧ i ≠ .status) := by rcases hrun with h | h <;> simp [h]
  rw [runFrame, hdec]
  exact if_neg hpass

end Sys2Proof.Machine
end

section
/-!
PROOFS. The statements about the encoding and the command step (30_encoding.md).
-/

namespace Sys2Proof.Machine

/-- Settles O1, by the commands: blocks and RDRK's index are read back from their bytes. -/
theorem decodeOfEncode : Obligations.DecodeOfEncode :=
  fun _ _ hwf => decode_encode (Instr.hasRdrk_of_wf hwf)

/-- Settles O2: the decoder reads the opcode and the whole payload of the command it answers. -/
theorem encodeOfDecode : Obligations.EncodeOfDecode := by
  intro p f i h
  obtain ⟨hf, hr⟩ := decode_eq_ok_iff.mp h
  refine ⟨hf, ?_⟩
  cases i with
  | rdrk j => exact .inl (hr j rfl)
  | loadkey | encblk | decblk | gfmul | sbox | isbox | status => exact .inr nofun

/-- Settles O3: R84's lines, and conversely a frame that decodes is its command's, which has one of the eight forms. -/
theorem decodeByOpcodeAndLength : Obligations.DecodeByOpcodeAndLength := by
  intro p hr
  refine ⟨fun _ => rfl, fun _ => decode_encblk, fun _ => decode_decblk, fun _ _ => rfl, fun _ => rfl, fun _ => rfl,
    fun _ => decode_rdrk hr, rfl, fun f i h => ?_⟩
  obtain ⟨rfl, -⟩ := decode_eq_ok_iff.mp h
  cases i with
  | loadkey | encblk | decblk | gfmul | sbox | isbox | rdrk | status => simp

/-- Settles O4: a frame R85 does not list is the frame of a command, and no command's frame is listed. -/
theorem illegalFramesAreR85List : Obligations.IllegalFramesAreR85List := by
  intro p f
  rw [exists_decode_error_iff]
  constructor
  · intro hno
    cases f with
    | nil => exact .inl rfl
    | cons op l =>
      refine .inr ⟨op, l, rfl, ?_⟩
      rcases opcode_cases op with hop | hop | rfl | rfl | rfl | rfl | rfl | rfl | rfl | rfl
      · exact .inl hop
      · exact .inr (.inl hop)
      · exact absurd rfl (hno (.loadkey l))
      · simpa using fun h => hno _ (decode_encblk h)
      · simpa using fun h => hno _ (decode_decblk h)
      · simpa [List.length_eq_two] using fun c s (h : l = [c, s]) => hno (.gfmul c s) (h ▸ rfl)
      · simpa [List.length_eq_one_iff] using fun b (h : l = [b]) => hno (.sbox b) (h ▸ rfl)
      · simpa [List.length_eq_one_iff] using fun b (h : l = [b]) => hno (.isbox b) (h ▸ rfl)
      · simpa using rdrk_payload_illegal hno
      · simpa using fun h : l = [] => hno .status (h ▸ rfl)
  · intro hlist i hdec
    obtain ⟨rfl, hr⟩ := decode_eq_ok_iff.mp hdec
    cases i with
    | rdrk j =>
      have hj : 44 ≤ j.val := by simpa [hr j rfl] using hlist
      exact absurd j.isLt (not_lt.mpr hj)
    | loadkey | encblk | decblk | gfmul | sbox | isbox | status => simp at hlist

/-- Settles O5: each is the frame of its command. -/
theorem writtenFramesDecode : Obligations.WrittenFramesDecode :=
  ⟨decode_encode (i := .gfmul 0x03#8 0x57#8) nofun, decode_encode (i := .sbox 0x53#8) nofun,
    decode_encode (i := .isbox 0xed#8) nofun, decode_encode (i := .rdrk 43) fun _ _ => rfl,
    decode_encode (i := .status) nofun, decode_encode (i := .loadkey []) nofun⟩

/-- Settles O11: the step takes the frame off its stream, and a command that is not refused is executed. -/
theorem stepRunsDecodedCommand : Obligations.StepRunsDecodedCommand := by
  intro s f rest i htakes hdec hrun
  calc step s = runFrame Config.params f { s with cmdIn := rest } := coreStep_takes htakes
    _ = exec i { s with cmdIn := rest } := runFrame_of_decode hdec hrun

end Sys2Proof.Machine
end

section
/-!
SUPPORT. The field product is linear in both operands, agrees with each of the ten multipliers and has no zero divisor among
their constants (40_field_arithmetic.md R124, R125).
-/

namespace Sys2Proof.Machine

/-- What bit `k` of `c` adds to the product of `c` and `s`. -/
def bitProduct (c s : Byte) (k : Nat) : Byte := if c.getLsbD k then xtimes k s else 0x00#8

/-- The field product is the XOR of what the eight bits add. -/
theorem fieldProduct_eq_bitProducts (c s : Byte) : fieldProduct c s =
    bitProduct c s 0 ^^^ bitProduct c s 1 ^^^ bitProduct c s 2 ^^^ bitProduct c s 3 ^^^
    bitProduct c s 4 ^^^ bitProduct c s 5 ^^^ bitProduct c s 6 ^^^ bitProduct c s 7 := by
  have hstep (acc : Byte) (k : Nat) :
      (if c.getLsbD k then acc ^^^ xtimes k s else acc) = acc ^^^ bitProduct c s k := by
    unfold bitProduct
    split <;> simp
  simp only [fieldProduct, hstep, List.foldl_cons, List.foldl_nil, BitVec.zero_xor]

/-- Repeated xtime is linear over XOR. -/
theorem xtimes_xor (k : Nat) (a b : Byte) : xtimes k (a ^^^ b) = xtimes k a ^^^ xtimes k b := by
  induction k with
  | zero => rfl
  | succ k ih => simp only [xtimes, ih, xtime_xor]

theorem bitProduct_xor_left (a b s : Byte) (k : Nat) :
    bitProduct (a ^^^ b) s k = bitProduct a s k ^^^ bitProduct b s k := by
  unfold bitProduct
  rw [BitVec.getLsbD_xor]
  cases a.getLsbD k <;> cases b.getLsbD k <;> simp

theorem bitProduct_xor_right (c a b : Byte) (k : Nat) :
    bitProduct c (a ^^^ b) k = bitProduct c a k ^^^ bitProduct c b k := by
  unfold bitProduct
  split <;> simp [xtimes_xor]

/-- The field product is linear in the constant. -/
theorem fieldProduct_xor_left (a b s : Byte) : fieldProduct (a ^^^ b) s = fieldProduct a s ^^^ fieldProduct b s := by
  simp only [fieldProduct_eq_bitProducts, bitProduct_xor_left]
  ac_rfl

/-- The field product is linear in the byte. -/
theorem fieldProduct_xor_right (c a b : Byte) : fieldProduct c (a ^^^ b) = fieldProduct c a ^^^ fieldProduct c b := by
  simp only [fieldProduct_eq_bitProducts, bitProduct_xor_right]
  ac_rfl

/-- The constants with one bit: xtime as often as the bit's place says. -/
theorem fieldProduct_1 (s : Byte) : fieldProduct 1 s = mul1 s := by simp [fieldProduct, xtimes, mul1]
theorem fieldProduct_2 (s : Byte) : fieldProduct 2 s = mul2 s := by simp [fieldProduct, xtimes, mul2]
theorem fieldProduct_4 (s : Byte) : fieldProduct 4 s = mul4 s := by simp [fieldProduct, xtimes, mul4]
theorem fieldProduct_8 (s : Byte) : fieldProduct 8 s = mul8 s := by simp [fieldProduct, xtimes, mul8, mul4]

/-- The product by a constant with the bits of two others is the XOR of their products. -/
theorem fieldProduct_of_expansion {a b c s x y : Byte} (hc : a ^^^ b = c) (ha : fieldProduct a s = x)
    (hb : fieldProduct b s = y) : fieldProduct c s = x ^^^ y := by
  rw [← hc, fieldProduct_xor_left, ha, hb]

/-- The other constants by their binary expansions (R125). -/
theorem fieldProduct_3 (s : Byte) : fieldProduct 3 s = mul3 s :=
  fieldProduct_of_expansion rfl (fieldProduct_2 s) (fieldProduct_1 s)
theorem fieldProduct_9 (s : Byte) : fieldProduct 9 s = mul9 s :=
  fieldProduct_of_expansion rfl (fieldProduct_8 s) (fieldProduct_1 s)
theorem fieldProduct_11 (s : Byte) : fieldProduct 11 s = mul11 s :=
  fieldProduct_of_expansion rfl (fieldProduct_9 s) (fieldProduct_2 s)
theorem fieldProduct_12 (s : Byte) : fieldProduct 12 s = mul12 s :=
  fieldProduct_of_expansion rfl (fieldProduct_8 s) (fieldProduct_4 s)
theorem fieldProduct_13 (s : Byte) : fieldProduct 13 s = mul13 s :=
  fieldProduct_of_expansion rfl (fieldProduct_12 s) (fieldProduct_1 s)
theorem fieldProduct_14 (s : Byte) : fieldProduct 14 s = mul14 s :=
  fieldProduct_of_expansion rfl (fieldProduct_12 s) (fieldProduct_2 s)

/-- `mul` by each of the ten constants is the field product (R125). -/
theorem mul_eq_fieldProduct {c : Byte} (hc : c ∈ mulConstants) (s : Byte) : mul c s = some (fieldProduct c s) := by
  simp only [mulConstants, List.mem_cons, List.not_mem_nil, or_false] at hc
  rcases hc with rfl | rfl | rfl | rfl | rfl | rfl | rfl | rfl | rfl | rfl
  · exact congrArg some (fieldProduct_1 s).symm
  · exact congrArg some (fieldProduct_2 s).symm
  · exact congrArg some (fieldProduct_3 s).symm
  · exact congrArg some (fieldProduct_4 s).symm
  · exact congrArg some (fieldProduct_8 s).symm
  · exact congrArg some (fieldProduct_9 s).symm
  · exact congrArg some (fieldProduct_11 s).symm
  · exact congrArg some (fieldProduct_12 s).symm
  · exact congrArg some (fieldProduct_13 s).symm
  · exact congrArg some (fieldProduct_14 s).symm

/-- A map that is linear over XOR sends 0 to 0. -/
theorem map_zero_of_xor {f : Byte → Byte} (hf : ∀ a b, f (a ^^^ b) = f a ^^^ f b) : f 0 = 0 := by
  simpa using hf 0 0

/-- A map on bytes that is linear over XOR and sends only 0 to 0 is a bijection. -/
theorem bijective_of_xor {f : Byte → Byte} (hf : ∀ a b, f (a ^^^ b) = f a ^^^ f b) (hker : ∀ s, f s = 0 → s = 0) :
    Function.Bijective f := by
  have hinj : Function.Injective f := by
    intro a b hab
    have hzero : f (a ^^^ b) = 0 := by rw [hf, hab]; exact BitVec.xor_self
    exact BitVec.xor_eq_zero_iff.mp (hker _ hzero)
  exact Finite.injective_iff_bijective.mp hinj

/-- The product of a supported constant and a byte is 0 for the byte 0 only: R124's check over all bytes. -/
theorem eq_zero_of_fieldProduct_eq_zero : ∀ c ∈ mulConstants, ∀ s : Byte, fieldProduct c s = 0 → s = 0 := by
  decide +kernel

/-- Multiplication by a supported constant is a bijection on bytes (R124 (d)). -/
theorem fieldProduct_bijective {c : Byte} (hc : c ∈ mulConstants) : Function.Bijective (fieldProduct c) :=
  bijective_of_xor (fieldProduct_xor_right c) (eq_zero_of_fieldProduct_eq_zero c hc)

/-- GFMUL answers the byte `mul` gives (R123). -/
theorem exec_gfmul_of_mul {c x v : Byte} (hv : mul c x = some v) (s : State) :
    exec (.gfmul c x) s = .next (s.respond .ok [v]) := by
  change execGfmul c x s = _
  rw [execGfmul, hv]

end Sys2Proof.Machine
end

section
/-!
PROOFS. The statements about the field and GFMUL (40_field_arithmetic.md).
-/

namespace Sys2Proof.Machine

/-- Settles O24: xtime is the field product by 2, hence a bijection. -/
theorem xtimeShiftsAndReduces : Obligations.XtimeShiftsAndReduces := by
  have hbij : Function.Bijective xtime := by
    have heq : fieldProduct 2 = xtime := funext fieldProduct_2
    exact heq ▸ fieldProduct_bijective (c := 2) (by decide)
  have hshift (b : Byte) : xtime b = if b.getLsbD 7 then (b <<< 1) ^^^ 0x1B#8 else b <<< 1 := by
    rw [xtime_eq, BitVec.msb_eq_getLsbD_last]
    rfl
  exact ⟨hshift, by decide, by decide, by decide, by decide, by decide, by decide, hbij, xtime_xor⟩

/-- Settles O25: each multiplier is defined by its rule, and the examples are computed. -/
theorem multiplyByEachConstant : Obligations.MultiplyByEachConstant :=
  ⟨fun _ => ⟨rfl, rfl, rfl, rfl, rfl, rfl, rfl, rfl, rfl, rfl⟩, by decide, by decide⟩

/-- Settles O26: by each constant the multiplication is the field product, which is linear and has no zero divisor there. -/
theorem multiplicationIsLinearAndBijective : Obligations.MultiplicationIsLinearAndBijective := by
  have hone : ∀ c ∈ mulConstants, fieldProduct c 1 = c := by decide
  refine ⟨fun c hc => ⟨fieldProduct c, mul_eq_fieldProduct hc, fieldProduct_xor_right c, ?_, hone c hc, ?_⟩, ?_⟩
  · exact map_zero_of_xor (fieldProduct_xor_right c)
  · exact fieldProduct_bijective hc
  · exact fun _ => ⟨rfl, rfl, rfl, rfl⟩

/-- Settles O27, by the binary expansions of the constants. -/
theorem multiplicationIsFieldProduct : Obligations.MultiplicationIsFieldProduct :=
  fun _ hc s => mul_eq_fieldProduct hc s

/-- Settles O28: GFMUL answers what `mul` gives, which is the field product. -/
theorem gfmulAnswersProduct : Obligations.GfmulAnswersProduct :=
  fun _ x s hc => exec_gfmul_of_mul (mul_eq_fieldProduct hc x) s

end Sys2Proof.Machine
end


section
/-!
SUPPORT. The field product is associative: xtime is multiplication by 2 on either side, since `x^8 = x^4 + x^3 + x + 1`
(40_field_arithmetic.md R110, R111). So a byte with a left inverse has no other right inverse.
-/

namespace Sys2Proof.Machine

theorem bitProduct_of_set {c : Byte} {k : Nat} (h : c.getLsbD k = true) (s : Byte) : bitProduct c s k = xtimes k s := by
  simp [bitProduct, h]

theorem bitProduct_of_clear {c : Byte} {k : Nat} (h : c.getLsbD k = false) (s : Byte) : bitProduct c s k = 0#8 := by
  simp [bitProduct, h]

/-- Eight times xtime is the product by the reduction constant: the modulus 0x11B (R110). -/
theorem xtimes_8 (s : Byte) : xtimes 8 s = fieldProduct reductionConst s := by
  revert s; decide +kernel

/-- Shifting the constant left moves each bit's product one xtime on. -/
theorem bitProduct_shiftLeft {k : Nat} (hk : k < 7) (c s : Byte) :
    bitProduct (c <<< 1) s (k + 1) = xtime (bitProduct c s k) := by
  have hbit : (c <<< 1).getLsbD (k + 1) = c.getLsbD k := by
    have hlt : k + 1 < 8 := by omega
    rw [BitVec.getLsbD_shiftLeft]
    simp [hlt, -BitVec.getLsbD_eq_getElem]
  unfold bitProduct
  rw [hbit]
  split
  · rfl
  · decide

/-- The bit that a shift drops is what xtime reduces. -/
theorem fieldProduct_shiftLeft (c s : Byte) :
    fieldProduct (c <<< 1) s = xtime (fieldProduct c s) ^^^ xtime (bitProduct c s 7) := by
  have hlow : bitProduct (c <<< 1) s 0 = 0#8 := bitProduct_of_clear (by simp) s
  simp (disch := decide) only [fieldProduct_eq_bitProducts, xtime_xor, hlow, BitVec.zero_xor, xor_cancel_right,
    bitProduct_shiftLeft]

/-- Multiplying the constant by 2 multiplies the product by 2. -/
theorem fieldProduct_xtime_left (c s : Byte) : fieldProduct (xtime c) s = xtime (fieldProduct c s) := by
  rw [xtime_eq, BitVec.msb_eq_getLsbD_last]
  split
  next hset =>
    rw [fieldProduct_xor_left, fieldProduct_shiftLeft, bitProduct_of_set hset, ← xtimes_8]
    exact xor_cancel_right _ _
  next hclear =>
    rw [fieldProduct_shiftLeft, bitProduct_of_clear (Bool.eq_false_iff.mpr hclear)]
    exact BitVec.xor_zero

theorem fieldProduct_xtimes_left (k : Nat) (c s : Byte) : fieldProduct (xtimes k c) s = xtimes k (fieldProduct c s) := by
  induction k with
  | zero => rfl
  | succ k ih => rw [xtimes, fieldProduct_xtime_left, ih, xtimes]

theorem fieldProduct_bitProduct_left (a b s : Byte) (k : Nat) :
    fieldProduct (bitProduct a b k) s = bitProduct a (fieldProduct b s) k := by
  unfold bitProduct
  split
  · exact fieldProduct_xtimes_left k b s
  · rfl

/-- The field product is associative. -/
theorem fieldProduct_assoc (a b s : Byte) : fieldProduct (fieldProduct a b) s = fieldProduct a (fieldProduct b s) := by
  rw [fieldProduct_eq_bitProducts a b, fieldProduct_eq_bitProducts a (fieldProduct b s)]
  simp only [fieldProduct_xor_left, fieldProduct_bitProduct_left]

/-- 1 is neutral on the right too: the bits of a byte are the powers of 2. -/
theorem fieldProduct_one_right (c : Byte) : fieldProduct c 1 = c := by
  revert c; decide +kernel

/-- A right inverse of a byte is its left inverse. -/
theorem eq_of_fieldProduct_eq_one {b u v : Byte} (hleft : fieldProduct v b = 1) (hright : fieldProduct b u = 1) : u = v :=
  calc u = fieldProduct 1 u := (fieldProduct_1 u).symm
    _ = fieldProduct v (fieldProduct b u) := by rw [← hleft, fieldProduct_assoc]
    _ = v := by rw [hright, fieldProduct_one_right]

end Sys2Proof.Machine
end

section
/-!
SUPPORT. The two printed tables undo each other, an SBOX entry with its affine transform undone is the inverse of the entry's
index, and what SBOX and ISBOX answer (41_substitution_tables.md).
-/

namespace Sys2Proof.Machine

/-- R142's check of the printed tables, entry by entry. -/
@[simp] theorem isbox_sbox (b : Byte) : isbox (sbox b) = b := by
  revert b; decide +kernel

@[simp] theorem sbox_isbox (b : Byte) : sbox (isbox b) = b := by
  revert b; decide +kernel

theorem sbox_ne_self (b : Byte) : sbox b ≠ b := by
  revert b; decide +kernel

theorem sbox_bijective : Function.Bijective sbox :=
  ⟨Function.LeftInverse.injective isbox_sbox, Function.RightInverse.surjective sbox_isbox⟩

/-- Bit `i` of the affine transform of `v` (R143). -/
def affineBit (v : Byte) (i : Nat) : Bool :=
  ((((v.getLsbD i ^^ v.getLsbD ((i + 4) % 8)) ^^ v.getLsbD ((i + 5) % 8)) ^^
    v.getLsbD ((i + 6) % 8)) ^^ v.getLsbD ((i + 7) % 8)) ^^ (0x63#8).getLsbD i

/-- The byte whose affine transform is `e`. -/
def affinePreimage (e : Byte) : Byte := e.rotateLeft 1 ^^^ e.rotateLeft 3 ^^^ e.rotateLeft 6 ^^^ 0x05#8

theorem affineBit_affinePreimage (e : Byte) (i : Fin 8) : affineBit (affinePreimage e) i.val = e.getLsbD i.val := by
  revert e i; decide +kernel

/-- R143's check of the printed table: without its affine transform, the entry of a nonzero index is the index's inverse. -/
theorem affinePreimage_sbox_inverse (b : Byte) (hb : b ≠ 0) :
    fieldProduct b (affinePreimage (sbox b)) = 1 ∧ fieldProduct (affinePreimage (sbox b)) b = 1 := by
  revert b; decide +kernel

theorem affinePreimage_sbox_zero : affinePreimage (sbox 0) = 0 := by decide

theorem exec_sbox (b : Byte) (s : State) : exec (.sbox b) s = .next (s.respond .ok [sbox b]) := rfl

theorem exec_isbox (b : Byte) (s : State) : exec (.isbox b) s = .next (s.respond .ok [isbox b]) := rfl

end Sys2Proof.Machine
end

section
/-!
PROOFS. The statements about the substitution tables (41_substitution_tables.md).
-/

namespace Sys2Proof.Machine

/-- Settles O33: the inverse is the table's entry with its affine transform undone, and a field inverse is unique. -/
theorem sboxIsAffineOfInverse : Obligations.SboxIsAffineOfInverse := by
  intro b
  refine ⟨affinePreimage (sbox b), ?_, ?_, fun i => (affineBit_affinePreimage (sbox b) i).symm⟩
  · split
    next hzero => rw [hzero, affinePreimage_sbox_zero]
    next hb => exact (affinePreimage_sbox_inverse b hb).1
  · intro u hu
    split at hu
    next hzero => rw [hu, hzero, affinePreimage_sbox_zero]
    next hb => exact eq_of_fieldProduct_eq_one (affinePreimage_sbox_inverse b hb).2 hu

/-- Settles O30: SBOX appends its one OK response and looks its entry up in the printed table. -/
theorem sboxAnswersEntry : Obligations.SboxAnswersEntry :=
  ⟨exec_sbox, by decide, by decide, by decide, by decide⟩

/-- Settles O31: ISBOX appends its one OK response and looks its entry up in the inverse table. -/
theorem isboxAnswersEntry : Obligations.IsboxAnswersEntry :=
  ⟨exec_isbox, by decide, by decide, by decide, by decide⟩

/-- Settles O32: the tables undo each other in both orders, hence SBOX is a bijection. -/
theorem tablesAreInverse : Obligations.TablesAreInverse :=
  ⟨sbox_bijective, fun b => ⟨isbox_sbox b, sbox_isbox b, sbox_ne_self b⟩⟩

end Sys2Proof.Machine
end

section
/-!
SUPPORT. The key-schedule micro-operations on the bytes of a word, and the key as the first four words of its schedule
(42_key_schedule.md R152 to R154, R159).
-/

namespace Sys2Proof.Machine

/-- The bits of `byte_j(w)` (00_scope.md R10). -/
theorem getLsbD_byteOf (w : Word) (j : Fin 4) (i : Nat) :
    (byteOf w j).getLsbD i = (decide (i < 8) && w.getLsbD (24 - 8 * j.val + i)) := by
  rw [byteOf, BitVec.getLsbD_extractLsb']

@[simp] theorem rotWord_word (a b c d : Byte) : rotWord (word a b c d) = word b c d a := by
  simp [rotWord]

@[simp] theorem subWord_word (a b c d : Byte) :
    subWord (word a b c d) = word (sbox a) (sbox b) (sbox c) (sbox d) := by
  simp [subWord]

/-- RotWord as the two shifts of R153: the low byte of the result is the top byte of the word, and every other bit comes from
8 places below. -/
theorem rotWord_eq_shifts (w : Word) : rotWord w = (w <<< 8) ||| (w >>> 24) := by
  refine BitVec.eq_of_getLsbD_eq fun i hi => ?_
  rw [rotWord, getLsbD_word, BitVec.getLsbD_or, BitVec.getLsbD_shiftLeft, BitVec.getLsbD_ushiftRight]
  by_cases hlow : i < 8
  · rw [if_pos hlow, getLsbD_byteOf]
    simp [hlow]
  · have hmoved (j : Fin 4) (k : Nat) (hjk : k + 8 * j.val = 32) (hk : k ≤ i ∧ i < k + 8) :
        (byteOf w j).getLsbD (i - k) = w.getLsbD (i - 8) := by
      have hsource : 24 - 8 * j.val + (i - k) = i - 8 := by omega
      have hin : i - k < 8 := by omega
      rw [getLsbD_byteOf, hsource, decide_eq_true hin, Bool.true_and]
    have hout : w.getLsbD (24 + i) = false := BitVec.getLsbD_of_ge w _ (by omega)
    simp only [hlow, hi, hout, if_false, decide_true, decide_false, Bool.not_false, Bool.true_and, Bool.or_false]
    split_ifs
    · exact hmoved 3 8 rfl (by omega)
    · exact hmoved 2 16 rfl (by omega)
    · exact hmoved 1 24 rfl (by omega)

/-- Byte `j` of key word `i` is key byte `4i + j` (R152). -/
theorem byteOf_keyWord (key : Block) (i j : Fin 4) :
    byteOf (keyWord key i) j = key.get ⟨4 * i.val + j.val, by omega⟩ := by
  match j with
  | 0 | 1 | 2 | 3 => exact byteOf_word ..

/-- The four words of a key contain each of its bytes (R152). -/
theorem eq_of_keyWord_eq {k₁ k₂ : Block} (h : ∀ i, keyWord k₁ i = keyWord k₂ i) : k₁ = k₂ := by
  refine Vector.ext fun n hn => ?_
  have hbyte := congrArg (byteOf · ⟨n % 4, by omega⟩) (h ⟨n / 4, by omega⟩)
  simpa [byteOf_keyWord, Nat.div_add_mod, Vector.get_eq_getElem] using hbyte

/-- The first four words of a schedule are the key, so a schedule has one key (R159). -/
theorem ScheduleOf.key_unique {k₁ k₂ : Block} {ws : Vector Word 44} (h₁ : ScheduleOf k₁ ws) (h₂ : ScheduleOf k₂ ws) :
    k₁ = k₂ :=
  eq_of_keyWord_eq fun i => (h₁.1 i).symm.trans (h₂.1 i)

/-- Blocks are equal exactly when the byte lists they are made of are. -/
theorem blockOfList_inj {l₁ l₂ : List Byte} {h₁ : l₁.length = 16} {h₂ : l₂.length = 16} :
    blockOfList l₁ h₁ = blockOfList l₂ h₂ ↔ l₁ = l₂ := by
  simp [blockOfList]

end Sys2Proof.Machine
end

section
/-!
SUPPORT. LOADKEY in one equation per kind of key length, and the words it leaves in W (42_key_schedule.md R151, R158).
-/

namespace Sys2Proof.Machine

/-- LOADKEY of 16 bytes loads the key's schedule (R158). -/
theorem exec_loadkey_schedule {key : List Byte} (hlen : key.length = 16) (s : State) :
    ∃ w ws k, (∀ i : Fin 44, w.get i = some (ws.get i)) ∧ ScheduleOf (blockOfList key hlen) ws ∧
      exec (.loadkey key) s = .next { s with
        w := w, ksValid := true, ki := k, freeIdx := s.freeIdx + 1, rspOut := s.rspOut ++ [[0x00#8]] } := by
  obtain ⟨_, hload⟩ | ⟨hne, -⟩ := execLoadkey_next key s
  · exact hload
  · exact absurd hlen hne

/-- LOADKEY of any other length gives up the old schedule and raises InvalidKey (R151, R158). -/
theorem exec_loadkey_rejected {key : List Byte} (hlen : key.length ≠ 16) (s : State) :
    exec (.loadkey key) s = .next (s.dropSchedule.raise .invalidKey) :=
  dif_neg hlen

/-- The W that a successful LOADKEY leaves is filled with the key's schedule. -/
theorem exec_loadkey_holds {key : List Byte} (hlen : key.length = 16) {s t : State}
    (h : exec (.loadkey key) s = .next t) : ∃ ws, t.Holds ws ∧ ScheduleOf (blockOfList key hlen) ws := by
  obtain ⟨w, ws, k, hw, hs, hexec⟩ := exec_loadkey_schedule hlen s
  cases hexec.symm.trans h
  exact ⟨ws, hw, hs⟩

/-- The W an outcome leaves, in a form the kernel evaluates; a run that stops leaves no word. -/
def wordsAfter : Outcome → Vector (Option Word) 44
  | .next t => t.w
  | .fault _ | .refused _ => noSchedule

theorem wordsAfter_of_next {o : Outcome} {t : State} (h : o = .next t) : wordsAfter o = t.w := by
  rw [h, wordsAfter]

/-- States that hold words have the same W exactly when they hold the same words. -/
theorem State.Holds.w_eq_iff {s t : State} {ws vs : Vector Word 44} (hs : s.Holds ws) (ht : t.Holds vs) :
    s.w = t.w ↔ ws = vs := by
  constructor
  · intro hw
    exact Vector.ext fun i hi => Option.some.inj ((hs ⟨i, hi⟩).symm.trans (hw ▸ ht ⟨i, hi⟩))
  · rintro rfl
    exact Vector.ext fun i hi => (hs ⟨i, hi⟩).trans (ht ⟨i, hi⟩).symm

end Sys2Proof.Machine
end

section
/-!
PROOFS. The statements about the key schedule (42_key_schedule.md).
-/

namespace Sys2Proof.Machine

/-- Settles O34: RotWord and SubWord byte by byte, and the doubling of the ten round constants. -/
theorem keyScheduleMicroOperations : Obligations.KeyScheduleMicroOperations :=
  ⟨rotWord_word, rotWord_eq_shifts, by decide, subWord_word, by decide, by decide, rfl, by decide, rfl, rfl, rfl⟩

/-- Settles O35, by the loop's invariant behind `exec_loadkey_schedule`: each turn fills the next word by the recurrence. -/
theorem loadkeyBuildsSchedule : Obligations.LoadkeyBuildsSchedule := by
  intro key hlen s
  obtain ⟨w, ws, k, hw, hs, hexec⟩ := exec_loadkey_schedule hlen s
  exact ⟨w, ws, k, s.freeIdx + 1, hw, hs, hexec⟩

/-- Settles O36: the schedule is dropped before the length is checked, and InvalidKey halts. -/
theorem wrongKeyLengthHalts : Obligations.WrongKeyLengthHalts :=
  fun _ s hlen =>
    ⟨noSchedule, _, s.dropSchedule_get, exec_loadkey_rejected hlen s, rfl, by simp [State.raise_halted]⟩

/-- Settles O37: the frame by LOADKEY's equation for each kind of length; the W is the key's schedule, which its key determines
and whose first words are the key. -/
theorem scheduleDependsOnKeyAlone : Obligations.ScheduleDependsOnKeyAlone := by
  constructor
  · intro key s t h
    by_cases hlen : key.length = 16
    · obtain ⟨w, ws, k, -, -, hexec⟩ := exec_loadkey_schedule hlen s
      cases hexec.symm.trans h
      simp
    · cases (exec_loadkey_rejected hlen s).symm.trans h
      simp [hlen]
  · intro k₁ k₂ s₁ s₂ t₁ t₂ hlen₁ hlen₂ h₁ h₂
    obtain ⟨ws, hws, hs₁⟩ := exec_loadkey_holds hlen₁ h₁
    obtain ⟨vs, hvs, hs₂⟩ := exec_loadkey_holds hlen₂ h₂
    rw [hws.w_eq_iff hvs]
    constructor
    · rintro rfl
      exact blockOfList_inj.mp (hs₁.key_unique hs₂)
    · rintro rfl
      exact hs₁.unique hs₂

/-- Settles O38: LOADKEY answers, and the five words are read off the W of its evaluated outcome. -/
theorem knownKeyScheduleWords : Obligations.KnownKeyScheduleWords := by
  obtain ⟨w, ws, k, -, -, hexec⟩ := exec_loadkey_schedule
    (key := [0, 1, 2, 3, 4, 5, 6, 7, 8, 9, 10, 11, 12, 13, 14, 15]) rfl State.reset
  refine ⟨_, hexec, ?_⟩
  rw [← wordsAfter_of_next hexec]
  decide +kernel

end Sys2Proof.Machine
end

section
/-!
SUPPORT. What each micro-operation leaves in a cell, and the pairs that undo each other (43_block_transform.md R173 to R175,
R177, R178).
-/

namespace Sys2Proof.Machine

@[simp] theorem cell_addKey (rk m : StateMatrix) (r c : Fin 4) : cell (addKey rk m) r c = cell m r c ^^^ cell rk r c :=
  cell_matrixFrom _ r c

@[simp] theorem cell_subBytes (m : StateMatrix) (r c : Fin 4) : cell (subBytes m) r c = sbox (cell m r c) :=
  cell_matrixFrom _ r c

@[simp] theorem cell_invSubBytes (m : StateMatrix) (r c : Fin 4) : cell (invSubBytes m) r c = isbox (cell m r c) :=
  cell_matrixFrom _ r c

@[simp] theorem cell_shiftRows (m : StateMatrix) (r c : Fin 4) : cell (shiftRows m) r c = cell m r (c + r) :=
  cell_matrixFrom _ r c

@[simp] theorem cell_invShiftRows (m : StateMatrix) (r c : Fin 4) : cell (invShiftRows m) r c = cell m r (c - r) :=
  cell_matrixFrom _ r c

/-- AddRoundKey is its own inverse (R173). -/
@[simp] theorem addKey_addKey (rk m : StateMatrix) : addKey rk (addKey rk m) = m :=
  matrix_ext fun r c => by simp only [cell_addKey, xor_cancel_right]

@[simp] theorem invSubBytes_subBytes (m : StateMatrix) : invSubBytes (subBytes m) = m :=
  matrix_ext fun r c => by simp only [cell_invSubBytes, cell_subBytes, isbox_sbox]

@[simp] theorem subBytes_invSubBytes (m : StateMatrix) : subBytes (invSubBytes m) = m :=
  matrix_ext fun r c => by simp only [cell_invSubBytes, cell_subBytes, sbox_isbox]

@[simp] theorem invShiftRows_shiftRows (m : StateMatrix) : invShiftRows (shiftRows m) = m :=
  matrix_ext fun r c => by simp only [cell_invShiftRows, cell_shiftRows, sub_add_cancel]

@[simp] theorem shiftRows_invShiftRows (m : StateMatrix) : shiftRows (invShiftRows m) = m :=
  matrix_ext fun r c => by simp only [cell_invShiftRows, cell_shiftRows, add_sub_cancel_right]

/-- One moves bytes, the other maps each byte by itself (R194). -/
theorem invShiftRows_invSubBytes (m : StateMatrix) : invShiftRows (invSubBytes m) = invSubBytes (invShiftRows m) :=
  matrix_ext fun r c => by simp only [cell_invShiftRows, cell_invSubBytes]

end Sys2Proof.Machine
end

section
/-!
SUPPORT. Circulant matrices over GF(2^8): their products are circulant, and MixColumns and InvMixColumns are two that are
inverse to each other (R176, R179).
-/

namespace Sys2Proof.Machine

/-- The sum in GF(2^8) of the four entries of a row or column. -/
def xorSum (f : Fin 4 → Byte) : Byte := f 0 ^^^ f 1 ^^^ f 2 ^^^ f 3

/-- A double sum may be taken in either order. -/
theorem xorSum_comm (f : Fin 4 → Fin 4 → Byte) :
    (xorSum fun i => xorSum fun j => f i j) = xorSum fun j => xorSum fun i => f i j := by
  simp only [xorSum]
  ac_rfl

/-- A sum around the circle may start anywhere. -/
theorem xorSum_sub_right (f : Fin 4 → Byte) (r : Fin 4) : (xorSum fun k => f (k - r)) = xorSum f := by
  match r with
  | 0 => rfl
  | 1 => change f 3 ^^^ f 0 ^^^ f 1 ^^^ f 2 = f 0 ^^^ f 1 ^^^ f 2 ^^^ f 3; ac_rfl
  | 2 => change f 2 ^^^ f 3 ^^^ f 0 ^^^ f 1 = f 0 ^^^ f 1 ^^^ f 2 ^^^ f 3; ac_rfl
  | 3 => change f 1 ^^^ f 2 ^^^ f 3 ^^^ f 0 = f 0 ^^^ f 1 ^^^ f 2 ^^^ f 3; ac_rfl

theorem fieldProduct_xorSum_right (c : Byte) (f : Fin 4 → Byte) :
    fieldProduct c (xorSum f) = xorSum fun k => fieldProduct c (f k) := by
  simp only [xorSum, fieldProduct_xor_right]

theorem fieldProduct_xorSum_left (f : Fin 4 → Byte) (s : Byte) :
    fieldProduct (xorSum f) s = xorSum fun k => fieldProduct (f k) s := by
  simp only [xorSum, fieldProduct_xor_left]

/-- The column times the circulant matrix with first row `p`: entry `(r, k)` of the matrix is `p ((k - r) mod 4)` (R176). -/
def circulant (p : Fin 4 → Byte) (a : Column) : Column :=
  columnFrom fun r => xorSum fun k => fieldProduct (p (k - r)) (rowOf a k)

@[simp] theorem rowOf_circulant (p : Fin 4 → Byte) (a : Column) (r : Fin 4) :
    rowOf (circulant p a) r = xorSum fun k => fieldProduct (p (k - r)) (rowOf a k) :=
  rowOf_columnFrom _ r

/-- The first row of the product of two circulant matrices. -/
def circulantProduct (p q : Fin 4 → Byte) : Fin 4 → Byte := fun j => xorSum fun k => fieldProduct (p k) (q (j - k))

/-- Two columns with the same four bytes are the same. -/
theorem column_ext {a b : Column} (h : ∀ r, rowOf a r = rowOf b r) : a = b := by
  cases a; cases b
  exact (Column.mk.injEq ..).mpr ⟨h 0, h 1, h 2, h 3⟩

/-- Multiplying by one circulant matrix after another is multiplying by their product. -/
theorem circulant_circulant (p q : Fin 4 → Byte) (a : Column) :
    circulant p (circulant q a) = circulant (circulantProduct p q) a := by
  refine column_ext fun r => ?_
  have hcoeff (j : Fin 4) : (xorSum fun k => fieldProduct (p (k - r)) (q (j - k))) = circulantProduct p q (j - r) := by
    rw [circulantProduct, ← xorSum_sub_right (fun k => fieldProduct (p k) (q (j - r - k))) r]
    simp only [sub_sub_sub_cancel_right]
  calc rowOf (circulant p (circulant q a)) r
      = xorSum fun k => xorSum fun j => fieldProduct (fieldProduct (p (k - r)) (q (j - k))) (rowOf a j) := by
        simp only [rowOf_circulant, fieldProduct_xorSum_right, fieldProduct_assoc]
    _ = xorSum fun j => fieldProduct (xorSum fun k => fieldProduct (p (k - r)) (q (j - k))) (rowOf a j) := by
        rw [xorSum_comm]
        simp only [fieldProduct_xorSum_left]
    _ = rowOf (circulant (circulantProduct p q) a) r := by
        simp only [hcoeff, rowOf_circulant]

/-- A circulant matrix written out: its rows are the first one rotated right (R176). -/
theorem circulant_of_row (b0 b1 b2 b3 : Byte) (a : Column) : circulant #v[b0, b1, b2, b3].get a =
    { r0 := fieldProduct b0 a.r0 ^^^ fieldProduct b1 a.r1 ^^^ fieldProduct b2 a.r2 ^^^ fieldProduct b3 a.r3
      r1 := fieldProduct b3 a.r0 ^^^ fieldProduct b0 a.r1 ^^^ fieldProduct b1 a.r2 ^^^ fieldProduct b2 a.r3
      r2 := fieldProduct b2 a.r0 ^^^ fieldProduct b3 a.r1 ^^^ fieldProduct b0 a.r2 ^^^ fieldProduct b1 a.r3
      r3 := fieldProduct b1 a.r0 ^^^ fieldProduct b2 a.r1 ^^^ fieldProduct b3 a.r2 ^^^ fieldProduct b0 a.r3 } :=
  rfl

theorem mixColumn_eq_circulant (a : Column) : mixColumn a = circulant mixRow0.get a := by
  simp only [mixColumn, mixRow0, circulant_of_row, fieldProduct_1, fieldProduct_2, fieldProduct_3]

theorem invMixColumn_eq_circulant (a : Column) : invMixColumn a = circulant invMixRow0.get a := by
  simp only [invMixColumn, invMixRow0, circulant_of_row, fieldProduct_9, fieldProduct_11, fieldProduct_13, fieldProduct_14]

/-- The first row of the identity matrix. -/
def identityRow0 : Vector Byte 4 := #v[1, 0, 0, 0]

theorem circulant_identityRow0 (a : Column) : circulant identityRow0.get a = a := by
  have hzero (s : Byte) : fieldProduct 0 s = 0#8 := by simp [fieldProduct]
  simp only [identityRow0, circulant_of_row, fieldProduct_1, mul1, hzero, BitVec.xor_zero, BitVec.zero_xor]

/-- Circulant matrices whose product has the identity's first row undo each other. -/
theorem circulant_cancel {p q : Fin 4 → Byte} (h : circulantProduct p q = identityRow0.get) (a : Column) :
    circulant p (circulant q a) = a := by
  rw [circulant_circulant, h, circulant_identityRow0]

@[simp] theorem invMixColumn_mixColumn (a : Column) : invMixColumn (mixColumn a) = a := by
  rw [mixColumn_eq_circulant, invMixColumn_eq_circulant, circulant_cancel (by decide)]

@[simp] theorem mixColumn_invMixColumn (a : Column) : mixColumn (invMixColumn a) = a := by
  rw [mixColumn_eq_circulant, invMixColumn_eq_circulant, circulant_cancel (by decide)]

/-- A column of four equal bytes is multiplied by the sum of the matrix's first row. -/
theorem circulant_of_equal_bytes (p : Fin 4 → Byte) (a : Byte) :
    circulant p ⟨a, a, a, a⟩ = columnFrom fun _ => fieldProduct (xorSum p) a := by
  refine column_ext fun r => ?_
  have hbyte (k : Fin 4) : rowOf ⟨a, a, a, a⟩ k = a := by
    match k with
    | 0 | 1 | 2 | 3 => rfl
  simp only [rowOf_circulant, rowOf_columnFrom, hbyte]
  rw [← fieldProduct_xorSum_left, xorSum_sub_right]

/-- The row `2 3 1 1` sums to 1 (R176). -/
theorem mixColumn_of_equal_bytes (a : Byte) : mixColumn ⟨a, a, a, a⟩ = ⟨a, a, a, a⟩ := by
  have hsum : xorSum mixRow0.get = 1 := by decide
  rw [mixColumn_eq_circulant, circulant_of_equal_bytes, hsum, fieldProduct_1]
  rfl

/-- A column operation read at one cell. -/
theorem cell_mapColumns (f : Column → Column) (m : StateMatrix) (r c : Fin 4) :
    cell (mapColumns f m) r c = rowOf (f (columnOf m c)) r := by
  match c with
  | 0 | 1 | 2 | 3 => rfl

theorem cell_mixColumns (m : StateMatrix) (r c : Fin 4) :
    cell (mixColumns m) r c = xorSum fun k => fieldProduct (mixRow0.get (k - r)) (cell m k c) := by
  rw [mixColumns, cell_mapColumns, mixColumn_eq_circulant, rowOf_circulant]
  rfl

theorem cell_invMixColumns (m : StateMatrix) (r c : Fin 4) :
    cell (invMixColumns m) r c = xorSum fun k => fieldProduct (invMixRow0.get (k - r)) (cell m k c) := by
  rw [invMixColumns, cell_mapColumns, invMixColumn_eq_circulant, rowOf_circulant]
  rfl

@[simp] theorem invMixColumns_mixColumns (m : StateMatrix) : invMixColumns (mixColumns m) = m := by
  simp [invMixColumns, mixColumns, mapColumns]

@[simp] theorem mixColumns_invMixColumns (m : StateMatrix) : mixColumns (invMixColumns m) = m := by
  simp [invMixColumns, mixColumns, mapColumns]

end Sys2Proof.Machine
end

section
/-!
SUPPORT. The rounds and the whole transform: each direction undoes the other (43_block_transform.md R180 to R190), and the
rounds of decryption with their boundaries drawn elsewhere (R194).
-/

namespace Sys2Proof.Machine

@[simp] theorem decRoundOn_encRoundOn (ws : Vector Word 44) (k : Fin 11) (m : StateMatrix) :
    decRoundOn ws k (encRoundOn ws k m) = m := by
  unfold decRoundOn encRoundOn
  split_ifs <;> simp only [addKey_addKey, invMixColumns_mixColumns, invShiftRows_shiftRows, invSubBytes_subBytes]

@[simp] theorem encRoundOn_decRoundOn (ws : Vector Word 44) (k : Fin 11) (m : StateMatrix) :
    encRoundOn ws k (decRoundOn ws k m) = m := by
  unfold decRoundOn encRoundOn
  split_ifs <;> simp only [addKey_addKey, mixColumns_invMixColumns, shiftRows_invShiftRows, subBytes_invSubBytes]

/-- Steps that undo each other, taken back last first. -/
theorem foldl_reverse_foldl {α κ : Type} {f g : α → κ → α} (h : ∀ a k, g (f a k) k = a) (ks : List κ) :
    ∀ a, ks.reverse.foldl g (ks.foldl f a) = a := by
  induction ks with
  | nil => exact fun _ => rfl
  | cons k ks ih =>
    intro a
    simp only [List.reverse_cons, List.foldl_append, List.foldl_cons, List.foldl_nil, ih, h]

/-- The rounds of encryption, in the order 0 to 10, and of decryption, in the reverse order (R183, R187). -/
theorem encryptBlock_eq (ws : Vector Word 44) (b : Block) :
    encryptBlock ws b = blockOfMatrix (encOrder.foldl (fun m k => encRoundOn ws k m) (matrixOfBlock b)) := rfl

theorem decryptBlock_eq (ws : Vector Word 44) (b : Block) :
    decryptBlock ws b = blockOfMatrix (encOrder.reverse.foldl (fun m k => decRoundOn ws k m) (matrixOfBlock b)) := rfl

@[simp] theorem decryptBlock_encryptBlock (ws : Vector Word 44) (b : Block) : decryptBlock ws (encryptBlock ws b) = b := by
  rw [decryptBlock_eq, encryptBlock_eq, matrixOfBlock_blockOfMatrix,
    foldl_reverse_foldl fun m k => decRoundOn_encRoundOn ws k m, blockOfMatrix_matrixOfBlock]

@[simp] theorem encryptBlock_decryptBlock (ws : Vector Word 44) (b : Block) : encryptBlock ws (decryptBlock ws b) = b := by
  rw [decryptBlock_eq, encryptBlock_eq, matrixOfBlock_blockOfMatrix]
  have hundo := foldl_reverse_foldl (f := fun m k => decRoundOn ws k m) (g := fun m k => encRoundOn ws k m)
    (fun m k => encRoundOn_decRoundOn ws k m) encOrder.reverse (matrixOfBlock b)
  rw [List.reverse_reverse] at hundo
  rw [hundo, blockOfMatrix_matrixOfBlock]

/-- DecRound between the first and the last one (R185). -/
theorem decRoundOn_middle (ws : Vector Word 44) {k : Fin 11} (hlast : k ≠ 0) (hfirst : k ≠ 10) (m : StateMatrix) :
    decRoundOn ws k m = invSubBytes (invShiftRows (invMixColumns (addKey (roundKey ws k) m))) := by
  rw [decRoundOn, if_neg hlast, if_neg hfirst]

/-- A middle round of decryption with its boundary drawn after InvMixColumns (R194). -/
def regroupedRoundOn (ws : Vector Word 44) (m : StateMatrix) (k : Fin 11) : StateMatrix :=
  invMixColumns (addKey (roundKey ws k) (invSubBytes (invShiftRows m)))

/-- Middle rounds after InvShiftRows and InvSubBytes are the regrouped rounds before them. -/
theorem foldl_decRoundOn_middle (ws : Vector Word 44) (ks : List (Fin 11)) (hks : ∀ k ∈ ks, k ≠ 0 ∧ k ≠ 10) :
    ∀ m, ks.foldl (fun m k => decRoundOn ws k m) (invSubBytes (invShiftRows m)) =
      invSubBytes (invShiftRows (ks.foldl (regroupedRoundOn ws) m)) := by
  induction ks with
  | nil => exact fun _ => rfl
  | cons k ks ih =>
    intro m
    obtain ⟨⟨hlast, hfirst⟩, htail⟩ := List.forall_mem_cons.mp hks
    rw [List.foldl_cons, decRoundOn_middle ws hlast hfirst, List.foldl_cons]
    exact ih htail _

/-- R194's sequence: after the middle rounds are regrouped, the first and the last round are there as DecRound has them. -/
theorem decryptBlock_regrouped (ws : Vector Word 44) (b : Block) : decryptBlock ws b = blockOfMatrix
    (addKey (roundKey ws 0) (invSubBytes (invShiftRows
      (([9, 8, 7, 6, 5, 4, 3, 2, 1] : List (Fin 11)).foldl (regroupedRoundOn ws)
        (addKey (roundKey ws 10) (matrixOfBlock b)))))) := by
  rw [← foldl_decRoundOn_middle ws _ (by decide)]
  rfl

end Sys2Proof.Machine
end

section
/-!
SUPPORT. What ENCBLK and DECBLK answer on a core that holds a schedule, and that only such a core completes them
(43_block_transform.md R173, R188, R189; 10_state.md R33).
-/

namespace Sys2Proof.Machine

/-- ENCBLK with a schedule (R188). -/
theorem exec_encblk_holds {s : State} {ws : Vector Word 44} (hk : s.ksValid = true) (hw : s.Holds ws) (b : Block) :
    exec (.encblk b) s = .next { s with
      block := none
      rnd := Config.freeRnd s.freeIdx
      dir := Config.freeDir s.freeIdx
      freeIdx := s.freeIdx + 1
      rspOut := s.rspOut ++ [0x00#8 :: (encryptBlock ws b).toList] } := by
  have hrun := transformBlock_holds hw .encrypt encRound encOrder b
  simp only [encRound_foldl] at hrun
  exact (if_pos hk).trans hrun

/-- DECBLK with a schedule (R189). -/
theorem exec_decblk_holds {s : State} {ws : Vector Word 44} (hk : s.ksValid = true) (hw : s.Holds ws) (b : Block) :
    exec (.decblk b) s = .next { s with
      block := none
      rnd := Config.freeRnd s.freeIdx
      dir := Config.freeDir s.freeIdx
      freeIdx := s.freeIdx + 1
      rspOut := s.rspOut ++ [0x00#8 :: (decryptBlock ws b).toList] } := by
  have hrun := transformBlock_holds hw .decrypt decRound decOrder b
  simp only [decRound_foldl] at hrun
  exact (if_pos hk).trans hrun

/-- The four words of round key `k` hold values. -/
def State.HasRoundKey (s : State) (k : Fin 11) : Prop := ∀ c : Fin 4, ∃ v, s.w.get (roundWord k c) = some v

/-- An AddRoundKey that completes found its round key. -/
theorem State.HasRoundKey.of_addRoundKey {k : Fin 11} {s t : State} (h : runMicroOp (.addRoundKey k) s = .next t) :
    s.HasRoundKey k := by
  simp only [runMicroOp, readRoundKey, readW_eq_next] at h
  obtain ⟨w0, h0, w1, h1, w2, h2, w3, h3, -⟩ := h
  intro c
  match c with
  | 0 => exact ⟨w0, h0⟩
  | 1 => exact ⟨w1, h1⟩
  | 2 => exact ⟨w2, h2⟩
  | 3 => exact ⟨w3, h3⟩

theorem State.HasRoundKey.of_microOps {k : Fin 11} (ops : List MicroOp) : ∀ {s t : State},
    .addRoundKey k ∈ ops → runMicroOps ops s = .next t → s.HasRoundKey k := by
  induction ops with
  | nil => exact fun hmem => absurd hmem List.not_mem_nil
  | cons op ops ih =>
    intro s t hmem h
    obtain ⟨u, hu, ht⟩ := andThen_eq_next.mp h
    obtain rfl | hmem := List.mem_cons.mp hmem
    · exact .of_addRoundKey hu
    · have hrest := ih hmem ht
      rw [runMicroOp_frame hu] at hrest
      exact hrest

theorem State.HasRoundKey.of_rounds {k j : Fin 11} {round : Fin 11 → List MicroOp} (hround : .addRoundKey k ∈ round j)
    (order : List (Fin 11)) : ∀ {s t : State}, j ∈ order → runRounds round order s = .next t → s.HasRoundKey k := by
  induction order with
  | nil => exact fun hmem => absurd hmem List.not_mem_nil
  | cons i order ih =>
    intro s t hmem h
    obtain ⟨u, hu, ht⟩ := andThen_eq_next.mp h
    obtain rfl | hmem := List.mem_cons.mp hmem
    · have hhead := State.HasRoundKey.of_microOps _ hround hu
      exact hhead
    · have hrest := ih hmem ht
      rw [runMicroOps_frame _ hu] at hrest
      exact hrest

/-- A core in which all eleven round keys hold values holds a list of 44 words. -/
theorem State.exists_holds_of_roundKeys {s : State} (h : ∀ k, s.HasRoundKey k) : ∃ ws, s.Holds ws := by
  have hword (i : Fin 44) : ∃ v, s.w.get i = some v := by
    have hi : roundWord ⟨i.val / 4, by omega⟩ ⟨i.val % 4, by omega⟩ = i := Fin.ext (Nat.div_add_mod i.val 4)
    exact hi ▸ h ⟨i.val / 4, by omega⟩ ⟨i.val % 4, by omega⟩
  choose f hf using hword
  exact ⟨Vector.ofFn f, fun i => by simp [hf, Vector.get_eq_getElem]⟩

/-- A block command that completes found every word of W holding a value, if its rounds add every round key. -/
theorem exists_holds_of_transformBlock {d : Direction} {round : Fin 11 → List MicroOp} {order : List (Fin 11)} {b : Block}
    {s t : State} (hround : ∀ k, k ∈ order ∧ .addRoundKey k ∈ round k) (h : transformBlock d round order b s = .next t) :
    ∃ ws, s.Holds ws := by
  obtain ⟨u, hu, -⟩ := andThen_eq_next.mp h
  have hkeys (k : Fin 11) := State.HasRoundKey.of_rounds (hround k).2 order (hround k).1 hu
  exact State.exists_holds_of_roundKeys hkeys

/-- Two cores with the same W that complete the same block command answer it alike. -/
theorem transformBlock_same_answer {d : Direction} {round : Fin 11 → List MicroOp} {order : List (Fin 11)} {b : Block}
    {s₁ s₂ t₁ t₂ : State} (hround : ∀ k, k ∈ order ∧ .addRoundKey k ∈ round k) (hw : s₁.w = s₂.w)
    (h₁ : transformBlock d round order b s₁ = .next t₁) (h₂ : transformBlock d round order b s₂ = .next t₂) :
    ∃ q, t₁.rspOut = s₁.rspOut ++ [q] ∧ t₂.rspOut = s₂.rspOut ++ [q] := by
  obtain ⟨ws, hws⟩ := exists_holds_of_transformBlock hround h₁
  cases (transformBlock_holds hws d round order b).symm.trans h₁
  cases (transformBlock_holds (s := s₂) (fun i => hw ▸ hws i) d round order b).symm.trans h₂
  exact ⟨_, rfl, rfl⟩

end Sys2Proof.Machine
end

section
/-!
SUPPORT. The schedule of a key as a value that can be computed with (42_key_schedule.md R150, R158).
-/

namespace Sys2Proof.Machine

/-- The words that LOADKEY's expansion leaves in W. -/
def scheduleWords (key : Block) : Vector Word 44 := (wordsAfter (loadSchedule key State.reset)).map (·.getD 0)

/-- They are the key's schedule. -/
theorem ScheduleOf.eq_scheduleWords {key : Block} {ws : Vector Word 44} (h : ScheduleOf key ws) : ws = scheduleWords key := by
  obtain ⟨w, vs, k, hw, hs, hload⟩ := loadSchedule_next key State.reset
  rw [scheduleWords, wordsAfter_of_next hload, h.unique hs]
  refine Vector.ext fun i hi => ?_
  have hword : w[i] = some vs[i] := hw ⟨i, hi⟩
  rw [Vector.getElem_map, hword, Option.getD_some]

end Sys2Proof.Machine
end

section
/-!
PROOFS. The statements about the block transform (43_block_transform.md).
-/

namespace Sys2Proof.Machine

/-- Settles O40: both steps by their cells; `i mod 4 + 4 ((i div 4 + i mod 4) mod 4)` is the source of block byte `i`. -/
theorem shiftRowsRotatesRows : Obligations.ShiftRowsRotatesRows := by
  refine ⟨cell_shiftRows, fun b i => ?_, fun m r c => ?_, fun m => ⟨invShiftRows_shiftRows m, shiftRows_invShiftRows m⟩⟩
  · rw [blockOfMatrix_get, cell_shiftRows, cell_matrixOfBlock]
    refine congrArg b.get (Fin.ext ?_)
    simp only [Fin.val_add]
    omega
  · rw [cell_invShiftRows]
    refine congrArg (cell m r) (Fin.ext ?_)
    simp only [Fin.val_sub]
    omega

/-- Settles O41: the steps by their cells, and the tables that undo each other. -/
theorem keyAdditionAndSubstitutionUndo : Obligations.KeyAdditionAndSubstitutionUndo := by
  refine ⟨fun ws k m r c => ?_, addKey_addKey, fun m r c => ⟨cell_subBytes m r c, cell_invSubBytes m r c⟩,
    fun m => ⟨invSubBytes_subBytes m, subBytes_invSubBytes m⟩⟩
  rw [cell_addKey, cell_roundKey]
  rfl

/-- Settles O42: MixColumns is the circulant matrix with first row `2 3 1 1`, whose sum is 1. -/
theorem mixColumnsIsCirculant : Obligations.MixColumnsIsCirculant :=
  ⟨cell_mixColumns, mixColumn_of_equal_bytes, by decide, by decide⟩

/-- Settles O43: the product of the two circulant matrices has the first row `1 0 0 0`. -/
theorem invMixColumnsUndoesMixColumns : Obligations.InvMixColumnsUndoesMixColumns :=
  ⟨cell_invMixColumns, fun m => ⟨invMixColumns_mixColumns m, mixColumns_invMixColumns m⟩, by decide⟩

/-- Settles O44: each step of a round is undone in the reverse order. -/
theorem roundsUndoEachOther : Obligations.RoundsUndoEachOther :=
  fun ws k m => ⟨decRoundOn_encRoundOn ws k m, encRoundOn_decRoundOn ws k m⟩

/-- Settles O45: the core's rounds compute the contract's when W holds `ws`. -/
theorem encblkAnswersCiphertext : Obligations.EncblkAnswersCiphertext :=
  fun b _ _ hk hw => ⟨_, _, _, exec_encblk_holds hk hw b⟩

/-- Settles O46, as O45. -/
theorem decblkAnswersPlaintext : Obligations.DecblkAnswersPlaintext :=
  fun b _ _ hk hw => ⟨_, _, _, exec_decblk_holds hk hw b⟩

/-- Settles O47: the rounds are undone last first. -/
theorem decryptInvertsEncrypt : Obligations.DecryptInvertsEncrypt :=
  fun ws b => ⟨decryptBlock_encryptBlock ws b, encryptBlock_decryptBlock ws b⟩

/-- Settles O48: under the invariant W holds a schedule, ENCBLK keeps it, and DECBLK undoes ENCBLK under it. -/
theorem coreDecryptsItsCiphertext : Obligations.CoreDecryptsItsCiphertext := by
  intro s b hinv hk
  obtain ⟨-, ws, hw, -⟩ := hinv.schedule hk
  obtain ⟨t, henc, hrsp⟩ : ∃ t, exec (.encblk b) s = .next t ∧
      t.rspOut = s.rspOut ++ [0x00#8 :: (encryptBlock ws b).toList] := ⟨_, exec_encblk_holds hk hw b, rfl⟩
  obtain ⟨hwt, hkt, -⟩ := (exec_effect henc).schedule_unchanged nofun
  have hholds : t.Holds ws := fun i => hwt ▸ hw i
  have hdec := exec_decblk_holds (hkt.trans hk) hholds (encryptBlock ws b)
  rw [decryptBlock_encryptBlock] at hdec
  have hlen : (encryptBlock ws b).toList.length = 16 := Vector.length_toList
  rw [← blockOfList_toList (encryptBlock ws b) hlen] at hdec
  exact ⟨t, _, _, hlen, henc, hrsp, hdec, rfl⟩

/-- Settles O50: without a schedule both answer KeyNotReady; with one, the answer is a function of the words of W, all of which
a command that completes has read. -/
theorem blockAnswerDependsOnKeyAndBlock : Obligations.BlockAnswerDependsOnKeyAndBlock := by
  intro b s₁ s₂ t₁ t₂ hw hk h
  cases hk₁ : s₁.ksValid with
  | false =>
    have hk₂ : s₂.ksValid = false := hk ▸ hk₁
    obtain ⟨h₁, h₂⟩ | ⟨h₁, h₂⟩ := h
    · cases (execEncblk_noKey hk₁ b).symm.trans h₁
      cases (execEncblk_noKey hk₂ b).symm.trans h₂
      exact ⟨_, State.raise_rspOut .., State.raise_rspOut ..⟩
    · cases (execDecblk_noKey hk₁ b).symm.trans h₁
      cases (execDecblk_noKey hk₂ b).symm.trans h₂
      exact ⟨_, State.raise_rspOut .., State.raise_rspOut ..⟩
  | true =>
    have hk₂ : s₂.ksValid = true := hk ▸ hk₁
    obtain ⟨h₁, h₂⟩ | ⟨h₁, h₂⟩ := h
    · exact transformBlock_same_answer (by decide) hw ((if_pos hk₁).symm.trans h₁) ((if_pos hk₂).symm.trans h₂)
    · exact transformBlock_same_answer (by decide) hw ((if_pos hk₁).symm.trans h₁) ((if_pos hk₂).symm.trans h₂)

/-- Settles O49: the two steps commute cell by cell, and each middle round's InvSubBytes and InvShiftRows pass to the next. -/
theorem decryptionRegrouped : Obligations.DecryptionRegrouped :=
  ⟨invShiftRows_invSubBytes, decryptBlock_regrouped⟩

/-- Settles O51: the ciphertext is computed from the key's one schedule, and decryption undoes encryption. -/
theorem knownAnswerVector : Obligations.KnownAnswerVector := by
  intro ws hs
  have hencrypt : encryptBlock (scheduleWords #v[0, 1, 2, 3, 4, 5, 6, 7, 8, 9, 10, 11, 12, 13, 14, 15])
      #v[0x00, 0x11, 0x22, 0x33, 0x44, 0x55, 0x66, 0x77, 0x88, 0x99, 0xaa, 0xbb, 0xcc, 0xdd, 0xee, 0xff] =
      #v[0x69, 0xc4, 0xe0, 0xd8, 0x6a, 0x7b, 0x04, 0x30, 0xd8, 0xcd, 0xb7, 0x80, 0x70, 0xb4, 0xc5, 0x5a] := by
    decide +kernel
  rw [← hs.eq_scheduleWords] at hencrypt
  refine ⟨hencrypt, ?_⟩
  rw [← hencrypt, decryptBlock_encryptBlock]

end Sys2Proof.Machine
end

section
/-!
SUPPORT. The STATUS register bit by bit and the answers of STATUS and RDRK (10_state.md R30; 44_system_commands.md).
-/

namespace Sys2Proof.Machine

/-- Bit `i` of the STATUS register counts from `KS_VALID`; the four ERR bits follow, and the rest is zero (R30). -/
theorem State.getLsbD_statusReg (s : State) (i : Nat) : s.statusReg.getLsbD i =
    [s.ksValid, s.errInvalidKey, s.errUnsupportedOp, s.errKeyNotReady, s.errIllegalCmd].getD i false := by
  change BitVec.getLsbD (w := 3 + 1 + 1 + 1 + 1 + 1) s.statusReg i = _
  simp only [State.statusReg, BitVec.getLsbD_append]
  match i with
  | 0 | 1 | 2 | 3 | 4 | _ + 5 => simp

theorem exec_status (s : State) : exec .status s = .next (s.respond .ok [s.statusReg]) := rfl

/-- With a schedule, RDRK answers the bytes of a word that has a value (R211). -/
theorem exec_rdrk_of_some {s : State} {i : Fin 44} {v : Word} (hk : s.ksValid = true) (hv : s.w.get i = some v) :
    exec (.rdrk i) s = .next (s.respond .ok (bytesOfWord v)) :=
  calc exec (.rdrk i) s = readW i s fun w => .next (s.respond .ok (bytesOfWord w)) := if_pos hk
    _ = .next (s.respond .ok (bytesOfWord v)) := readW_of_some hv _

end Sys2Proof.Machine
end

section
/-!
PROOFS. The statements about STATUS and RDRK (44_system_commands.md).
-/

namespace Sys2Proof.Machine

/-- Settles O21: the answer is the STATUS register, and the frame `[0x08]` decodes to STATUS, which no halted core refuses. -/
theorem statusAnswersRegister : Obligations.StatusAnswersRegister :=
  fun s => ⟨s.statusReg, exec_status s, s.getLsbD_statusReg 0, s.getLsbD_statusReg 1, s.getLsbD_statusReg 2,
    s.getLsbD_statusReg 3, s.getLsbD_statusReg 4, s.getLsbD_statusReg 5, s.getLsbD_statusReg 6, s.getLsbD_statusReg 7,
    fun rest htakes => stepRunsDecodedCommand s _ rest .status htakes (decode_encode (i := .status) nofun) (.inr rfl)⟩

/-- Settles O22: RDRK reads the word and answers its bytes, `byte_0` first. -/
theorem rdrkAnswersWord : Obligations.RdrkAnswersWord :=
  fun _ _ _ hk hv => exec_rdrk_of_some hk hv

end Sys2Proof.Machine
end

section
/-!
SUPPORT. A buffer as the list of its blocks (45_buffer_driver.md R221 to R223).
-/

namespace Sys2Proof.Machine

/-- The blocks one after another, as a buffer. -/
def joinBlocks (bs : List Block) : List Byte := (bs.map Vector.toList).flatten

@[simp] theorem joinBlocks_nil : joinBlocks [] = [] := rfl

@[simp] theorem joinBlocks_cons (b : Block) (bs : List Block) : joinBlocks (b :: bs) = b.toList ++ joinBlocks bs := rfl

@[simp] theorem joinBlocks_length (bs : List Block) : (joinBlocks bs).length = 16 * bs.length := by
  induction bs with
  | nil => rfl
  | cons b bs ih =>
    rw [joinBlocks_cons, List.length_append, Vector.length_toList, ih, List.length_cons]
    omega

/-- The driver cuts joined blocks into the same blocks again. -/
theorem chunks_joinBlocks (bs : List Block) : chunks bs.length (joinBlocks bs) = bs.map Vector.toList := by
  simpa [joinBlocks] using chunks_of_flatten (bs.map Vector.toList) (by simp)

/-- Bytes `16j .. 16j+15` of joined blocks are block `j`. -/
theorem joinBlocks_piece (bs : List Block) {j : Nat} (hj : j < bs.length) :
    ((joinBlocks bs).drop (16 * j)).take 16 = bs[j].toList := by
  have hpiece := chunks_getElem bs.length (joinBlocks bs) j (by simpa using hj)
  simpa [chunks_joinBlocks] using hpiece.symm

/-- A buffer of whole blocks is joined from blocks. -/
theorem exists_joinBlocks {n : Nat} {l : List Byte} (hl : l.length = 16 * n) :
    ∃ bs : List Block, bs.length = n ∧ joinBlocks bs = l := by
  have hpieces : chunks n l ∈ Set.range (List.map (Vector.toList (n := 16))) := by
    rw [Set.range_list_map]
    exact fun c hc => ⟨blockOfList c (chunks_length_eq hl c hc), rfl⟩
  obtain ⟨bs, hbs⟩ := hpieces
  refine ⟨bs, ?_, ?_⟩
  · simpa using congrArg List.length hbs
  · rw [joinBlocks, hbs, chunks_flatten hl]

/-- The padded buffer in blocks (R221). -/
theorem exists_joinBlocks_pad (plain : List Byte) :
    ∃ bs : List Block, bs.length = plain.length / 16 + 1 ∧ joinBlocks bs = pad plain :=
  exists_joinBlocks (pad_length plain)

end Sys2Proof.Machine
end

section
/-!
SUPPORT. What one command of the driver answers on a core that waits: ENCBLK and DECBLK on one that serves a schedule, LOADKEY on
one that is ready for it and on one that is halted (45_buffer_driver.md R220, R222, R223; 60_exceptions.md R246).
-/

namespace Sys2Proof.Machine

variable {p : Params} {s t u : State} {ws : Vector Word 44}

/-- The core `t` after an operation of the driver on `s` that went well: it serves the schedule `ws`, and the responses that
waited and the `ERR` bits are those of `s`. -/
structure EndsServing (ws : Vector Word 44) (s t : State) : Prop where
  serving : t.Serving ws
  responses : t.rspOut = s.rspOut
  errors : SameErrors s t

theorem EndsServing.refl (hs : s.Serving ws) : EndsServing ws s s := ⟨hs, rfl, rfl, rfl, rfl, rfl⟩

theorem EndsServing.trans (h₁ : EndsServing ws s t) (h₂ : EndsServing ws t u) : EndsServing ws s u := by
  obtain ⟨-, hr₁, hk₁, ho₁, hn₁, hi₁⟩ := h₁
  obtain ⟨hs₂, hr₂, hk₂, ho₂, hn₂, hi₂⟩ := h₂
  exact ⟨hs₂, hr₂.trans hr₁, hk₂.trans hk₁, ho₂.trans ho₁, hn₂.trans hn₁, hi₂.trans hi₁⟩

/-- On a core that serves `ws` the block command `op` answers `f` of its block, and the core serves `ws` again. -/
def BlockCommandAnswers (p : Params) (op : Byte) (ws : Vector Word 44) (f : Block → Block) : Prop :=
  ∀ (s : State) (b : Block), s.Serving ws →
    ∃ t, command p (op :: b.toList) s = .next (t, .ok (f b).toList) ∧ EndsServing ws s t

/-- A frame of an opcode and 16 bytes is within every transport R7 allows. -/
theorem blockFrame_fits (hp : p.Wf) (op : Byte) (b : Block) : (op :: b.toList).length ≤ 1 + p.payloadMax := by
  simp only [List.length_cons, Vector.length_toList]
  omega

/-- A waiting core that is sent a frame handles that frame in its next step. -/
theorem coreStep_sent (p : Params) (f : Frame) (hreset : s.resetIn = false) (hcmd : s.cmdIn = []) :
    coreStep p { s with cmdIn := [f] } = runFrame p f s :=
  calc coreStep p { s with cmdIn := [f] } = runFrame p f { s with cmdIn := [] } :=
        coreStep_takes (s := { s with cmdIn := [f] }) ⟨hreset, rfl⟩
    _ = runFrame p f s := by rw [← hcmd]

theorem encblk_answers (hp : p.Wf) (ws : Vector Word 44) : BlockCommandAnswers p 0x02#8 ws (encryptBlock ws) := by
  rintro s b ⟨hreset, hcmd, hhalt, hk, hw⟩
  have hdec : decode p (0x02#8 :: b.toList) = .ok (.encblk b) := decode_encode (i := .encblk b) nofun
  exact ⟨_, command_next hreset hcmd hhalt (blockFrame_fits hp _ b) hdec (exec_encblk_holds hk hw b) rfl,
    ⟨hreset, hcmd, hhalt, hk, hw⟩, rfl, rfl, rfl, rfl, rfl⟩

theorem decblk_answers (hp : p.Wf) (ws : Vector Word 44) : BlockCommandAnswers p 0x03#8 ws (decryptBlock ws) := by
  rintro s b ⟨hreset, hcmd, hhalt, hk, hw⟩
  have hdec : decode p (0x03#8 :: b.toList) = .ok (.decblk b) := decode_encode (i := .decblk b) nofun
  exact ⟨_, command_next hreset hcmd hhalt (blockFrame_fits hp _ b) hdec (exec_decblk_holds hk hw b) rfl,
    ⟨hreset, hcmd, hhalt, hk, hw⟩, rfl, rfl, rfl, rfl, rfl⟩

/-- The expansion's words satisfy the contract of the schedule (R152, R156, R157). -/
theorem scheduleOf_scheduleWords (key : Block) : ScheduleOf key (scheduleWords key) := by
  obtain ⟨_, ws, _, -, hsched, -⟩ := loadSchedule_next key State.reset
  exact hsched.eq_scheduleWords ▸ hsched

/-- The driver's LOADKEY on a core that waits and is not halted leaves the key's schedule, whatever was there before (R220). -/
theorem loadKey_ready (hp : p.Wf) (key : Block) (hs : s.Ready) :
    ∃ t, loadKey p key s = .next (t, .ok []) ∧ EndsServing (scheduleWords key) s t := by
  obtain ⟨hreset, hcmd, hhalt⟩ := hs
  have hdec : decode p (0x01#8 :: key.toList) = .ok (.loadkey key.toList) := decode_encode (i := .loadkey key.toList) nofun
  obtain ⟨w, ws, k, hw, hsched, hexec⟩ := exec_loadkey_schedule (Vector.length_toList (xs := key)) s
  rw [blockOfList_toList] at hsched
  obtain rfl := hsched.eq_scheduleWords
  exact ⟨_, command_next hreset hcmd hhalt (blockFrame_fits hp _ key) hdec hexec rfl,
    ⟨hreset, hcmd, hhalt, rfl, hw⟩, rfl, rfl, rfl, rfl, rfl⟩

/-- On a halted core the driver's LOADKEY surfaces the status Halted and changes nothing (60 R246). -/
theorem loadKey_halted (hp : p.Wf) (key : Block) (hreset : s.resetIn = false) (hcmd : s.cmdIn = []) (hhalt : s.halted = true) :
    loadKey p key s = .next (s, .error (.coreStatus 0x06#8)) := by
  have hsend : s.sendFrame p (0x01#8 :: key.toList) = some { s with cmdIn := [0x01#8 :: key.toList] } := by
    rw [State.sendFrame, if_pos (blockFrame_fits hp _ key), hcmd]
    rfl
  have hdec : decode p (0x01#8 :: key.toList) = .ok (.loadkey key.toList) := decode_encode (i := .loadkey key.toList) nofun
  have hstep : coreStep p { s with cmdIn := [0x01#8 :: key.toList] } = .next (s.respond .halted []) := by
    rw [coreStep_sent p _ hreset hcmd, runFrame, hdec]
    exact if_pos ⟨hhalt, nofun⟩
  simp [loadKey, command, exchange, hsend, runSteps, hstep, resultOf, codeOf, State.respond]

end Sys2Proof.Machine
end

section
/-!
SUPPORT. ENCRYPT and DECRYPT block by block on a core that serves a schedule (45_buffer_driver.md R222, R223).
-/

namespace Sys2Proof.Machine

variable {p : Params} {s : State} {ws : Vector Word 44}

/-- A block command that answers `f` of every block answers `f` of each block of a buffer, in block order. -/
theorem commandPerBlock_answers {op : Byte} {f : Block → Block} (hop : BlockCommandAnswers p op ws f) (bs : List Block) :
    ∀ {s : State}, s.Serving ws → ∃ t,
      commandPerBlock p op (bs.map Vector.toList) s = .next (t, .ok (joinBlocks (bs.map f))) ∧ EndsServing ws s t := by
  induction bs with
  | nil => exact fun {s} hs => ⟨s, rfl, .refl hs⟩
  | cons b bs ih =>
    intro s hs
    obtain ⟨t, hcmd, ht⟩ := hop s b hs
    obtain ⟨u, hrest, hu⟩ := ih ht.serving
    refine ⟨u, ?_, ht.trans hu⟩
    simp [commandPerBlock, hcmd, hrest]

/-- ENCRYPT of a buffer that pads to the blocks `bs`. -/
theorem encryptBuffer_blocks (hp : p.Wf) {plain : List Byte} {bs : List Block} (hbs : joinBlocks bs = pad plain)
    (hs : s.Serving ws) : ∃ t,
      encryptBuffer p plain s = .next (t, .ok (joinBlocks (bs.map (encryptBlock ws)))) ∧ EndsServing ws s t := by
  have hcount : (joinBlocks bs).length / 16 = bs.length := by rw [joinBlocks_length]; omega
  rw [encryptBuffer, ← hbs, hcount, chunks_joinBlocks]
  exact commandPerBlock_answers (encblk_answers hp ws) bs hs

/-- DECRYPT of the blocks `bs`, of which there is at least one. -/
theorem decryptBuffer_blocks (hp : p.Wf) {bs : List Block} (hne : bs ≠ []) (hs : s.Serving ws) : ∃ t,
    decryptBuffer p (joinBlocks bs) s = .next (t, .ok (joinBlocks (bs.map (decryptBlock ws)))) ∧ EndsServing ws s t := by
  have hpos : 0 < bs.length := List.length_pos_iff.mpr hne
  have hcount : (joinBlocks bs).length / 16 = bs.length := by rw [joinBlocks_length]; omega
  rw [decryptBuffer, if_neg (by rw [joinBlocks_length]; omega), if_neg (by rw [joinBlocks_length]; omega), hcount,
    chunks_joinBlocks]
  exact commandPerBlock_answers (decblk_answers hp ws) bs hs

/-- DECRYPT on a core with the same schedule undoes ENCRYPT block by block. -/
theorem decryptBuffer_encrypted (hp : p.Wf) {bs : List Block} (hne : bs ≠ []) (hs : s.Serving ws) : ∃ t,
    decryptBuffer p (joinBlocks (bs.map (encryptBlock ws))) s = .next (t, .ok (joinBlocks bs)) ∧ EndsServing ws s t := by
  have hcancel : (bs.map (encryptBlock ws)).map (decryptBlock ws) = bs := by simp [Function.comp_def]
  have hdec := decryptBuffer_blocks (bs := bs.map (encryptBlock ws)) hp (by simpa using hne) hs
  rwa [hcancel] at hdec

/-- DECRYPT of a length that is no multiple of 16 (R224). -/
theorem decryptBuffer_malformed (p : Params) {cipher : List Byte} (s : State) (h : cipher.length % 16 ≠ 0) :
    decryptBuffer p cipher s = .next (s, .error .malformedCiphertext) :=
  if_pos h

end Sys2Proof.Machine
end

section
/-!
SUPPORT. The manager: what an operation that needs the schedule can end with, and when `decrypt` is one
(45_buffer_driver.md R220, R224, R228, R229).
-/

namespace Sys2Proof.Machine

variable {p : Params} {m n : CipherManager} {s t : State}

theorem withManager_eq_next {α : Type} {o : DriverOutcome α} {r : Except DriverError α} :
    withManager m o = .next (n, t, r) ↔ n = m ∧ o = .next (t, r) := by
  cases o with
  | next x => simp [withManager, Prod.ext_iff, eq_comm]
  | fault r | refused r => simp [withManager]

/-- What an operation that needs the schedule can end with: the operation ran under the schedule created before, or an earlier
failure is reported again, or the one LOADKEY was sent, after which the operation ran or the LOADKEY's error ended it. -/
theorem withSchedule_cases {α : Type} {op : State → DriverOutcome α} {r : Except DriverError α}
    (h : withSchedule p m s op = .next (n, t, r)) :
    (m.schedule = .created ∧ n = m ∧ op s = .next (t, r)) ∨
    (∃ e, m.schedule = .failed e ∧ n = m ∧ t = s ∧ r = .error e) ∨
    (m.schedule = .absent ∧ ∃ u bytes, loadKey p m.key s = .next (u, .ok bytes) ∧
      n = { m with schedule := .created } ∧ op u = .next (t, r)) ∨
    (m.schedule = .absent ∧ ∃ e, loadKey p m.key s = .next (t, .error e) ∧
      n = { m with schedule := .failed e } ∧ r = .error e) := by
  cases hm : m.schedule with
  | created =>
    rw [withSchedule_created hm, withManager_eq_next] at h
    exact .inl ⟨rfl, h⟩
  | failed e =>
    rw [withSchedule_failed hm] at h
    cases h
    exact .inr (.inl ⟨e, rfl, rfl, rfl, rfl⟩)
  | absent =>
    cases hk : loadKey p m.key s with
    | next x =>
      obtain ⟨u, e | bytes⟩ := x
      · rw [withSchedule_first_error hm hk] at h
        cases h
        exact .inr (.inr (.inr ⟨rfl, e, rfl, rfl, rfl⟩))
      · rw [withSchedule_first hm hk, withManager_eq_next] at h
        exact .inr (.inr (.inl ⟨rfl, u, bytes, rfl, h⟩))
    | fault r | refused r => simp [withSchedule, ensureSchedule, hm, hk] at h

/-- Once an operation that needs the schedule has ended, the LOADKEY is used up. -/
theorem withSchedule_uses_loadkey {α : Type} {op : State → DriverOutcome α} {r : Except DriverError α}
    (h : withSchedule p m s op = .next (n, t, r)) : n.schedule ≠ .absent ∧ n.key = m.key := by
  obtain ⟨hm, rfl, -⟩ | ⟨e, hm, rfl, -⟩ | ⟨-, u, bytes, -, rfl, -⟩ | ⟨-, e, -, rfl, -⟩ := withSchedule_cases h
  · simp [hm]
  · simp [hm]
  · simp
  · simp

/-- A manager whose LOADKEY is used up stays as it is, and its operation runs on the core or nothing does. -/
theorem withSchedule_used {α : Type} {op : State → DriverOutcome α} {r : Except DriverError α} (hm : m.schedule ≠ .absent)
    (h : withSchedule p m s op = .next (n, t, r)) : n = m ∧ (t = s ∨ op s = .next (t, r)) := by
  obtain ⟨-, rfl, hop⟩ | ⟨e, -, rfl, rfl, -⟩ | ⟨habs, -⟩ | ⟨habs, -⟩ := withSchedule_cases h
  · exact ⟨rfl, .inr hop⟩
  · exact ⟨rfl, .inl rfl⟩
  · exact absurd habs hm
  · exact absurd habs hm

/-- A new manager's first operation on a ready core runs on a core that serves the schedule of the manager's key. -/
theorem withSchedule_new_ready {α : Type} (hp : p.Wf) (key : Block) (hs : s.Ready) : ∃ t, EndsServing (scheduleWords key) s t ∧
    ∀ op : State → DriverOutcome α, withSchedule p (.new key) s op = withManager ⟨key, .created⟩ (op t) := by
  obtain ⟨t, hload, ht⟩ := loadKey_ready hp key hs
  exact ⟨t, ht, withSchedule_first (m := .new key) rfl hload⟩

/-- `decrypt` of a nonempty buffer of whole blocks needs the schedule. -/
theorem CipherManager.decrypt_whole_blocks {cipher : List Byte} (hlen : cipher.length % 16 = 0) (hne : cipher ≠ []) :
    CipherManager.decrypt p cipher m s = withSchedule p m s (decryptBuffer p cipher) := by
  have hpos : cipher.length ≠ 0 := by simpa using hne
  exact if_neg (by simp [hlen, hpos])

/-- `encrypt` of a new manager whose LOADKEY ends in an error ends with that error and remembers it (R228; log 17). -/
theorem CipherManager.encrypt_loadkey_error {key : Block} {plain : List Byte} {e : DriverError}
    (hload : loadKey p key s = .next (t, .error e)) :
    CipherManager.encrypt p plain (.new key) s = .next (⟨key, .failed e⟩, t, .error e) :=
  withSchedule_first_error (m := .new key) rfl hload _

/-- So does `decrypt` where it needs the schedule. -/
theorem CipherManager.decrypt_loadkey_error {key : Block} {cipher : List Byte} {e : DriverError}
    (hload : loadKey p key s = .next (t, .error e)) (hlen : cipher.length % 16 = 0) (hne : cipher ≠ []) :
    CipherManager.decrypt p cipher (.new key) s = .next (⟨key, .failed e⟩, t, .error e) := by
  rw [CipherManager.decrypt_whole_blocks hlen hne]
  exact withSchedule_first_error (m := .new key) rfl hload _

/-- `decrypt` of joined blocks needs the schedule. -/
theorem CipherManager.decrypt_joinBlocks {bs : List Block} (hne : bs ≠ []) :
    CipherManager.decrypt p (joinBlocks bs) m s = withSchedule p m s (decryptBuffer p (joinBlocks bs)) := by
  have hpos : 0 < bs.length := List.length_pos_iff.mpr hne
  refine CipherManager.decrypt_whole_blocks (by rw [joinBlocks_length]; omega) fun hnil => ?_
  have hlen : 16 * bs.length = 0 := by simpa using congrArg List.length hnil
  omega

end Sys2Proof.Machine
end

section
/-!
SUPPORT. The driver's block commands leave W, KS_VALID and the core's inputs as they are, whatever W holds and whatever is answered
(10_state.md R26, R30).
-/

namespace Sys2Proof.Machine

variable {p : Params} {s t u : State}

/-- `t` has the schedule, the command stream and the reset signal of `s`. -/
structure SameScheduleAndInputs (s t : State) : Prop where
  w : t.w = s.w
  ksValid : t.ksValid = s.ksValid
  cmdIn : t.cmdIn = s.cmdIn
  resetIn : t.resetIn = s.resetIn

theorem SameScheduleAndInputs.refl (s : State) : SameScheduleAndInputs s s := ⟨rfl, rfl, rfl, rfl⟩

theorem SameScheduleAndInputs.trans (h₁ : SameScheduleAndInputs s t) (h₂ : SameScheduleAndInputs t u) :
    SameScheduleAndInputs s u :=
  ⟨h₂.w.trans h₁.w, h₂.ksValid.trans h₁.ksValid, h₂.cmdIn.trans h₁.cmdIn, h₂.resetIn.trans h₁.resetIn⟩

/-- Handling a frame whose opcode is not LOADKEY's. -/
theorem runFrame_keeps_schedule {op : Byte} {b : List Byte} (hop : op ≠ 0x01#8) (h : runFrame p (op :: b) s = .next t) :
    SameScheduleAndInputs s t := by
  obtain ⟨-, -, rfl⟩ | ⟨-, -, rfl⟩ | ⟨i, hdec, -, hexec⟩ := runFrame_cases h
  · exact ⟨rfl, rfl, rfl, rfl⟩
  · exact ⟨rfl, rfl, rfl, rfl⟩
  · have hi : ∀ key, i ≠ .loadkey key := by
      rintro key rfl
      exact hop (List.cons.inj (decode_eq_loadkey hdec)).1
    obtain ⟨hw, hk, -⟩ := (exec_effect hexec).schedule_unchanged hi
    obtain ⟨hcmd, hreset⟩ := (exec_effect hexec).inputs_unchanged
    exact ⟨hw, hk, hcmd, hreset⟩

/-- One command of the driver whose opcode is not LOADKEY's, on a core that waits. -/
theorem command_keeps_schedule {op : Byte} {b : List Byte} {r : Except DriverError (List Byte)} (hop : op ≠ 0x01#8)
    (hreset : s.resetIn = false) (hcmd : s.cmdIn = []) (h : command p (op :: b) s = .next (t, r)) :
    SameScheduleAndInputs s t := by
  obtain ⟨rfl, -⟩ | ⟨u, hstep, ht⟩ := command_cases hcmd h
  · exact .refl _
  · rw [coreStep_sent p _ hreset hcmd] at hstep
    obtain ⟨hw, hk, hcmd', hreset'⟩ := runFrame_keeps_schedule hop hstep
    rw [ht]
    exact ⟨hw, hk, hcmd', hreset'⟩

/-- The commands for a list of blocks end after the first one or go on from the core it left. -/
theorem commandPerBlock_cons_next {op : Byte} {b : List Byte} {bs : List (List Byte)} {r : Except DriverError (List Byte)}
    (h : commandPerBlock p op (b :: bs) s = .next (t, r)) :
    ∃ u q, command p (op :: b) s = .next (u, q) ∧ (t = u ∨ ∃ q', commandPerBlock p op bs u = .next (t, q')) := by
  unfold commandPerBlock at h
  split at h
  · next u c hu =>
    refine ⟨u, _, hu, .inr ?_⟩
    split at h
    · next v cs hv => cases h; exact ⟨_, hv⟩
    · next v e hv => cases h; exact ⟨_, hv⟩
    · cases h
    · cases h
  · next u e hu => cases h; exact ⟨_, _, hu, .inl rfl⟩
  · cases h
  · cases h

/-- Any number of block commands of the driver, on a core that waits. -/
theorem commandPerBlock_keeps_schedule {op : Byte} (hop : op ≠ 0x01#8) (bs : List (List Byte)) :
    ∀ {s : State} {r : Except DriverError (List Byte)}, s.resetIn = false → s.cmdIn = [] →
      commandPerBlock p op bs s = .next (t, r) → SameScheduleAndInputs s t := by
  induction bs with
  | nil => intro s r _ _ h; cases h; exact .refl _
  | cons b bs ih =>
    intro s r hreset hcmd h
    obtain ⟨u, q, hu, hrest⟩ := commandPerBlock_cons_next h
    have hsu := command_keeps_schedule hop hreset hcmd hu
    obtain rfl | ⟨q', hrest⟩ := hrest
    · exact hsu
    · exact hsu.trans (ih (hsu.resetIn.trans hreset) (hsu.cmdIn.trans hcmd) hrest)

theorem encryptBuffer_keeps_schedule {plain : List Byte} {r : Except DriverError (List Byte)} (hreset : s.resetIn = false)
    (hcmd : s.cmdIn = []) (h : encryptBuffer p plain s = .next (t, r)) : SameScheduleAndInputs s t :=
  commandPerBlock_keeps_schedule (by decide) _ hreset hcmd h

theorem decryptBuffer_keeps_schedule {cipher : List Byte} {r : Except DriverError (List Byte)} (hreset : s.resetIn = false)
    (hcmd : s.cmdIn = []) (h : decryptBuffer p cipher s = .next (t, r)) : SameScheduleAndInputs s t := by
  unfold decryptBuffer at h
  split at h
  · cases h; exact .refl _
  · split at h
    · cases h
    · exact commandPerBlock_keeps_schedule (by decide) _ hreset hcmd h

/-- `decrypt` of a manager whose LOADKEY is used up is DECRYPT on the core, or nothing. -/
theorem CipherManager.decrypt_used {m n : CipherManager} {cipher : List Byte} {r : Except DriverError (List Byte)}
    (hm : m.schedule ≠ .absent) (h : CipherManager.decrypt p cipher m s = .next (n, t, r)) :
    n = m ∧ (t = s ∨ decryptBuffer p cipher s = .next (t, r)) := by
  unfold CipherManager.decrypt at h
  split at h
  · obtain ⟨hn, hbuf⟩ := withManager_eq_next.mp h
    exact ⟨hn, .inr hbuf⟩
  · exact withSchedule_used hm h

end Sys2Proof.Machine
end

section
/-!
PROOFS. The statements about the host's driver (45_buffer_driver.md).
-/

namespace Sys2Proof.Machine

/-- Settles O52, by the padded length. -/
theorem padAddsOneToSixteenZeros : Obligations.PadAddsOneToSixteenZeros := by
  intro l
  have hlen := pad_length l
  exact ⟨rfl, by omega, by omega, by omega, fun haligned => by omega⟩

/-- Settles O53: the padded buffer is joined from blocks, and piece `j` of joined blocks is block `j`. -/
theorem encryptBufferIsBlockwise : Obligations.EncryptBufferIsBlockwise := by
  intro p plain ws s hp hs
  obtain ⟨bs, hcount, hbs⟩ := exists_joinBlocks_pad plain
  obtain ⟨t, henc, ht⟩ := encryptBuffer_blocks hp hbs hs
  refine ⟨t, _, henc, ht.serving, ht.responses, ht.errors, by simp [hcount, Nat.mul_comm], fun j => ?_⟩
  have hj : j.val < bs.length := j.isLt.trans_eq hcount.symm
  rw [← hbs, joinBlocks_piece bs hj, joinBlocks_piece _ (by simpa using hj)]
  exact ⟨Vector.length_toList, by simp⟩

/-- Settles O54: the length is checked before a frame is sent. -/
theorem malformedCiphertextSendsNothing : Obligations.MalformedCiphertextSendsNothing :=
  fun p _ s h => decryptBuffer_malformed p s h

/-- Settles O55: length 0 is a multiple of 16, so the refusal of the empty buffer is reached. -/
theorem emptyDecryptIsRefused : Obligations.EmptyDecryptIsRefused :=
  fun _ _ => rfl

/-- Settles O56: each block is decrypted with the schedule it was encrypted with. -/
theorem decryptOfEncryptIsPadded : Obligations.DecryptOfEncryptIsPadded := by
  intro p plain ws s hp hs
  obtain ⟨bs, hcount, hbs⟩ := exists_joinBlocks_pad plain
  obtain ⟨t, henc, ht⟩ := encryptBuffer_blocks hp hbs hs
  obtain ⟨u, hdec, hu⟩ := decryptBuffer_encrypted hp (List.ne_nil_of_length_eq_add_one hcount) ht.serving
  rw [hbs] at hdec
  exact ⟨t, u, _, henc, hdec, hu.serving⟩

/-- Settles O57: the LOADKEY leaves a core that serves the key's schedule, on which ENCRYPT is block by block. -/
theorem firstUseLoadsManagersKey : Obligations.FirstUseLoadsManagersKey := by
  intro p plain key s hp hs
  obtain ⟨u, hu, hfirst⟩ := withSchedule_new_ready hp key hs
  obtain ⟨t, out, henc, hserv, hrsp, herr, hblocks⟩ := encryptBufferIsBlockwise p plain _ u hp hu.serving
  have hsu : EndsServing (scheduleWords key) s t := hu.trans ⟨hserv, hrsp, herr⟩
  exact ⟨t, _, out, (hfirst _).trans (withManager_eq_next.mpr ⟨rfl, henc⟩), scheduleOf_scheduleWords key,
    hsu.serving, hsu.responses, hsu.errors, hblocks⟩

/-- Settles O58: the manager's operations by the state of its schedule; the block commands write neither W nor KS_VALID. -/
theorem loadkeyIsNotSentAgain : Obligations.LoadkeyIsNotSentAgain := by
  refine ⟨fun p buffer m n s t r h => withSchedule_uses_loadkey h, fun p buffer m n s t r hm hreset hcmd h => ?_⟩
  obtain ⟨hn, hkeep⟩ : n = m ∧ SameScheduleAndInputs s t := by
    obtain h | h := h
    · obtain ⟨hn, rfl | hbuf⟩ := withSchedule_used hm h
      · exact ⟨hn, .refl _⟩
      · exact ⟨hn, encryptBuffer_keeps_schedule hreset hcmd hbuf⟩
    · obtain ⟨hn, rfl | hbuf⟩ := CipherManager.decrypt_used hm h
      · exact ⟨hn, .refl _⟩
      · exact ⟨hn, decryptBuffer_keeps_schedule hreset hcmd hbuf⟩
  exact ⟨hn, hkeep.w, hkeep.ksValid⟩

/-- Settles O59: the error of the first LOADKEY ends both operations, and on a halted core that LOADKEY is refused. -/
theorem driverStopsBeforeFirstBlock : Obligations.DriverStopsBeforeFirstBlock := by
  refine ⟨fun p buffer key s t e hload => ⟨CipherManager.encrypt_loadkey_error hload, CipherManager.decrypt_loadkey_error hload⟩,
    fun p buffer key s hp hreset hcmd hhalt => ?_, fun p cipher m s hlen => ?_⟩
  · have hload := loadKey_halted hp key hreset hcmd hhalt
    exact ⟨CipherManager.encrypt_loadkey_error hload, CipherManager.decrypt_loadkey_error hload⟩
  · exact (if_pos (.inl hlen)).trans (withManager_eq_next.mpr ⟨rfl, decryptBuffer_malformed p s hlen⟩)

/-- Settles O60: after the first use, on either core, the core serves the schedule of the one key. -/
theorem managerRoundTrip : Obligations.ManagerRoundTrip := by
  intro p plain key s hp hs
  obtain ⟨bs, hcount, hbs⟩ := exists_joinBlocks_pad plain
  have hne : bs ≠ [] := List.ne_nil_of_length_eq_add_one hcount
  have hne' : bs.map (encryptBlock (scheduleWords key)) ≠ [] := by simpa using hne
  obtain ⟨v, hv, hfirst⟩ := withSchedule_new_ready hp key hs
  obtain ⟨t, henc, ht⟩ := encryptBuffer_blocks hp hbs hv.serving
  refine ⟨t, _, (hfirst _).trans (withManager_eq_next.mpr ⟨rfl, henc⟩), ?_, fun s' hs' => ?_⟩
  · obtain ⟨u, hdec, -⟩ := decryptBuffer_encrypted hp hne ht.serving
    rw [hbs] at hdec
    rw [CipherManager.decrypt_joinBlocks hne', withSchedule_created rfl]
    exact ⟨u, withManager_eq_next.mpr ⟨rfl, hdec⟩⟩
  · obtain ⟨v', hv', hfirst'⟩ := withSchedule_new_ready hp key hs'
    obtain ⟨u, hdec, -⟩ := decryptBuffer_encrypted hp hne hv'.serving
    rw [hbs] at hdec
    rw [CipherManager.decrypt_joinBlocks hne', hfirst']
    exact ⟨u, withManager_eq_next.mpr ⟨rfl, hdec⟩⟩

end Sys2Proof.Machine
end

section
/-!
SUPPORT. What becomes of a frame that is refused, illegal or fails its own check: the answer to it and the status it is expected to
have (30_encoding.md R91; 60_exceptions.md R240 to R249).
-/

namespace Sys2Proof.Machine

variable {p : Params} {s t : State} {f : Frame} {i : Instr}

/-- The only frame that decodes to STATUS, the command a halted core executes (30_encoding.md R84; 60 R246). -/
theorem decode_eq_status_iff : decode p f = .ok .status ↔ f = [0x08#8] :=
  decode_eq_ok_iff.trans ⟨fun h => h.1.symm, fun hf => ⟨hf.symm, nofun⟩⟩

/-- A frame meets one of R91's three lines: a halted core refuses it, it is illegal, or its command is executed. -/
theorem frame_refused_or_illegal_or_run (p : Params) (s : State) (f : Frame) :
    (s.halted = true ∧ decode p f ≠ .ok .status) ∨ (s.halted = false ∧ ∃ e, decode p f = .error e) ∨
    ∃ i, decode p f = .ok i ∧ (s.halted = false ∨ i = .status) := by
  cases hhalt : s.halted with
  | false => cases decode p f <;> simp
  | true => by_cases hdec : decode p f = .ok .status <;> simp [hdec]

/-- A halted core answers Halted to every frame but STATUS's (R246). -/
theorem runFrame_of_halted (hhalt : s.halted = true) (hf : decode p f ≠ .ok .status) :
    runFrame p f s = .next (s.respond .halted []) := by
  unfold runFrame
  split
  · next i hdec => exact if_pos ⟨hhalt, fun hi => hf (hi ▸ hdec)⟩
  · exact if_pos hhalt

/-- An illegal frame raises IllegalCommand on a core that is not halted (R245). -/
theorem runFrame_of_illegal {e : Illegal} (hhalt : s.halted = false) (hdec : decode p f = .error e) :
    runFrame p f s = .next (s.raise .illegalCommand) := by
  simp [runFrame, hdec, hhalt]

/-- GFMUL with an unsupported constant raises UnsupportedOperation (40 R112, R123). -/
theorem exec_gfmul_unsupported {c : Byte} (hc : c ∉ mulConstants) (x : Byte) (s : State) :
    exec (.gfmul c x) s = .next (s.raise .unsupportedOperation) := by
  have hmul : mul c x = none := by simpa using mt (mul_isSome c x).mp hc
  change execGfmul c x s = _
  rw [execGfmul, hmul]

/-- No command but GFMUL checks for an unsupported constant (R242). -/
theorem exists_gfmul_of_ownStatus (h : ownStatus s i = .unsupportedOperation) :
    ∃ c x, i = .gfmul c x ∧ c ∉ mulConstants := by
  cases i with
  | gfmul c x => exact ⟨c, x, rfl, fun hc => nomatch (if_pos hc).symm.trans h⟩
  | loadkey | encblk | decblk | rdrk => simp only [ownStatus] at h; split at h <;> cases h
  | sbox | isbox | status => cases h

/-- A command that fails its own check answers a next state: it stops before it reads W or STATE. -/
theorem exec_next_of_failure (h : ownStatus s i ≠ .ok) : ∃ t, exec i s = .next t := by
  cases i with
  | loadkey key => exact ⟨_, exec_loadkey_rejected (fun hlen => h (if_pos hlen)) s⟩
  | gfmul c x => exact ⟨_, exec_gfmul_unsupported (fun hc => h (if_pos hc)) x s⟩
  | encblk | decblk | rdrk => exact exec_next _ fun hk => absurd (if_pos hk) h
  | sbox | isbox | status => exact absurd rfl h

/-- A command answers the status of its own check, and nothing after a status other than OK (R81, R249). -/
theorem CommandEffect.answer (h : CommandEffect s i t) :
    ∃ bytes, t.rspOut = s.rspOut ++ [codeOf (ownStatus s i) :: bytes] ∧ (ownStatus s i ≠ .ok → bytes = []) := by
  cases h with
  | scheduleLoaded hlen => exact ⟨[], by simp [ownStatus, hlen, codeOf], fun _ => rfl⟩
  | keyRejected hlen => exact ⟨[], by simp [ownStatus, hlen, statusOf], fun _ => rfl⟩
  | blockAnswered _ hown c => exact ⟨c.toList, by simp [hown, codeOf], fun hne => absurd hown hne⟩
  | @answered _ bytes _ hown => exact ⟨bytes, by simp [hown], fun hne => absurd hown hne⟩
  | keyNotReady _ hown => exact ⟨[], by simp [hown, statusOf], fun _ => rfl⟩
  | unsupported hc => exact ⟨[], by simp [ownStatus, hc, statusOf], fun _ => rfl⟩

/-- A command leaves the outcome of its own check as it was: LOADKEY's does not look at the state, the others keep KS_VALID. -/
theorem CommandEffect.ownStatus_unchanged (h : CommandEffect s i t) : ownStatus t i = ownStatus s i := by
  cases i with
  | loadkey | gfmul | sbox | isbox | status => rfl
  | encblk | decblk | rdrk => simp only [ownStatus, (h.schedule_unchanged nofun).2.1]

/-- The three checks of R249, one equation each. -/
theorem expectedStatus_of_halted (hhalt : s.halted = true) (hf : decode p f ≠ .ok .status) :
    expectedStatus p s f = .halted :=
  if_pos ⟨hhalt, mt decode_eq_status_iff.mpr hf⟩

theorem expectedStatus_of_illegal {e : Illegal} (hhalt : s.halted = false) (hdec : decode p f = .error e) :
    expectedStatus p s f = .illegalCommand := by
  simp [expectedStatus, hhalt, hdec]

theorem expectedStatus_of_run (hdec : decode p f = .ok i) (hrun : s.halted = false ∨ i = .status) :
    expectedStatus p s f = ownStatus s i := by
  have hpass : ¬ (s.halted = true ∧ f ≠ [0x08#8]) := by
    rintro ⟨hhalt, hf⟩
    obtain hno | rfl := hrun
    · simp [hno] at hhalt
    · exact hf (decode_eq_status_iff.mp hdec)
  rw [expectedStatus, if_neg hpass, hdec]

/-- A frame that was handled is answered with its expected status, and nothing after a status other than OK (R249). -/
theorem runFrame_answer (h : runFrame p f s = .next t) :
    ∃ bytes, t.rspOut = s.rspOut ++ [codeOf (expectedStatus p s f) :: bytes] ∧
      (expectedStatus p s f ≠ .ok → bytes = []) := by
  obtain ⟨hhalt, hf, rfl⟩ | ⟨hhalt, ⟨e, hdec⟩, rfl⟩ | ⟨i, hdec, hrun, hexec⟩ := runFrame_cases h
  · rw [expectedStatus_of_halted hhalt hf]
    exact ⟨[], rfl, fun _ => rfl⟩
  · rw [expectedStatus_of_illegal hhalt hdec]
    exact ⟨[], rfl, fun _ => rfl⟩
  · rw [expectedStatus_of_run hdec hrun]
    exact (exec_effect hexec).answer

/-- A frame that is expected to fail is handled, whatever W holds. -/
theorem runFrame_next_of_failure (h : expectedStatus p s f ≠ .ok) : ∃ t, runFrame p f s = .next t := by
  obtain ⟨hhalt, hf⟩ | ⟨hhalt, e, hdec⟩ | ⟨i, hdec, hrun⟩ := frame_refused_or_illegal_or_run p s f
  · exact ⟨_, runFrame_of_halted hhalt hf⟩
  · exact ⟨_, runFrame_of_illegal hhalt hdec⟩
  · rw [expectedStatus_of_run hdec hrun] at h
    rw [runFrame_of_decode hdec hrun]
    exact exec_next_of_failure h

/-- After a frame was handled it is expected to be answered as before, unless the core is halted now (R254). -/
theorem expectedStatus_after_runFrame (h : runFrame p f s = .next t) :
    expectedStatus p t f = expectedStatus p s f ∨ expectedStatus p t f = .halted := by
  obtain ⟨-, -, rfl⟩ | ⟨hhalt, ⟨e, hdec⟩, rfl⟩ | ⟨i, hdec, hrun, hexec⟩ := runFrame_cases h
  · exact .inl rfl
  · have hhalt' : (s.raise .illegalCommand).halted = false := hhalt
    exact .inl ((expectedStatus_of_illegal hhalt' hdec).trans (expectedStatus_of_illegal hhalt hdec).symm)
  · by_cases hrun' : t.halted = false ∨ i = .status
    · rw [expectedStatus_of_run hdec hrun, expectedStatus_of_run hdec hrun', (exec_effect hexec).ownStatus_unchanged]
      exact .inl rfl
    · simp only [not_or, Bool.not_eq_false] at hrun'
      obtain ⟨hhalt, hi⟩ := hrun'
      exact .inr (expectedStatus_of_halted hhalt (by simpa [hdec] using hi))

/-- Handling a frame leaves the reset signal alone. -/
theorem runFrame_resetIn (h : runFrame p f s = .next t) : t.resetIn = s.resetIn := by
  obtain ⟨-, -, rfl⟩ | ⟨-, -, rfl⟩ | ⟨i, -, -, hexec⟩ := runFrame_cases h
  · rfl
  · rfl
  · exact (exec_effect hexec).inputs_unchanged.2

end Sys2Proof.Machine
end

section
/-!
SUPPORT. The same of a step that takes a frame, for all parameters: no check of R249 looks at the command stream.
-/

namespace Sys2Proof.Machine

variable {p : Params} {s t : State} {f g : Frame} {rest : List Frame}

theorem expectedStatus_set_cmdIn (p : Params) (s : State) (f : Frame) (rest : List Frame) :
    expectedStatus p { s with cmdIn := rest } f = expectedStatus p s f := rfl

/-- A step's response has the frame's expected status, and nothing after a status other than OK (R249). -/
theorem coreStep_answer (htakes : s.Takes f rest) (h : coreStep p s = .next t) :
    ∃ bytes, t.rspOut = s.rspOut ++ [codeOf (expectedStatus p s f) :: bytes] ∧
      (expectedStatus p s f ≠ .ok → bytes = []) := by
  have hans := runFrame_answer ((coreStep_takes htakes).symm.trans h)
  rwa [expectedStatus_set_cmdIn] at hans

/-- A step on a frame that is expected to fail answers its status alone. -/
theorem coreStep_next_of_failure (htakes : s.Takes f rest) (hfail : expectedStatus p s f ≠ .ok) :
    ∃ t, coreStep p s = .next t ∧ t.rspOut = s.rspOut ++ [[codeOf (expectedStatus p s f)]] := by
  obtain ⟨t, hrun⟩ := runFrame_next_of_failure (p := p) (f := f) (s := { s with cmdIn := rest })
    (by rwa [expectedStatus_set_cmdIn])
  have hstep : coreStep p s = .next t := (coreStep_takes htakes).trans hrun
  obtain ⟨bytes, hrsp, hbytes⟩ := coreStep_answer htakes hstep
  exact ⟨t, hstep, hbytes hfail ▸ hrsp⟩

/-- After a step on a frame the frame is expected to be answered as before, unless the core is halted now (R254). -/
theorem expectedStatus_after_coreStep (htakes : s.Takes f rest) (h : coreStep p s = .next t) :
    expectedStatus p t f = expectedStatus p s f ∨ expectedStatus p t f = .halted := by
  have hafter := expectedStatus_after_runFrame ((coreStep_takes htakes).symm.trans h)
  rwa [expectedStatus_set_cmdIn] at hafter

/-- A step that takes a frame leaves the next one to be taken (20_memory.md R61). -/
theorem coreStep_takes_next (htakes : s.Takes f (g :: rest)) (h : coreStep p s = .next t) : t.Takes g rest := by
  have hrun : runFrame p f { s with cmdIn := g :: rest } = .next t := (coreStep_takes htakes).symm.trans h
  exact ⟨(runFrame_resetIn hrun).trans htakes.1, (runFrame_responds hrun).1⟩

end Sys2Proof.Machine
end

section
/-!
PROOFS. The statements about the errors and the command step (60_exceptions.md).
-/

namespace Sys2Proof.Machine

/-- Settles O12: the frame is refused unless it is STATUS's, and the two bits HALTED is made of are sticky. -/
theorem haltedCoreAnswersStatusOnly : Obligations.HaltedCoreAnswersStatusOnly := by
  intro s hhalt hreset
  refine ⟨fun f rest hcmd hf => ?_, fun rest hcmd => ?_, fun t h => ?_⟩
  · calc step s = runFrame Config.params f { s with cmdIn := rest } := coreStep_takes ⟨hreset, hcmd⟩
      _ = _ := runFrame_of_halted hhalt (mt decode_eq_status_iff.mp hf)
  · calc step s = exec .status { s with cmdIn := rest } :=
          stepRunsDecodedCommand s _ rest .status ⟨hreset, hcmd⟩ (decode_eq_status_iff.mpr rfl) (.inr rfl)
      _ = _ := exec_status _
  · obtain ⟨hkey, hop, -⟩ := errorBitsAreSticky s t hreset h
    exact Bool.or_eq_true_iff.mpr ((Bool.or_eq_true_iff.mp hhalt).imp hkey hop)

/-- Settles O13: `raise` sets one bit, which HALTED does not look at, and answers the status alone. -/
theorem illegalFrameRaisesIllegalCommand : Obligations.IllegalFrameRaisesIllegalCommand := by
  intro p s f rest e htakes hhalt hdec
  have hstep : coreStep p s = .next (State.raise { s with cmdIn := rest } .illegalCommand) :=
    (coreStep_takes htakes).trans (runFrame_of_illegal hhalt hdec)
  exact ⟨_, hstep, State.raise_illegalCommand _, hhalt⟩

/-- Settles O14: each way of handling a frame answers with the status of the check that led to it. -/
theorem responseStatusFollowsCheckOrder : Obligations.ResponseStatusFollowsCheckOrder :=
  fun _ _ _ _ htakes h => coreStep_answer htakes h

/-- Settles O15: there is neither a reset nor a frame to take. -/
theorem waitingChangesNothing : Obligations.WaitingChangesNothing := by
  intro s hreset hcmd
  simp [step, coreStep, hreset, hcmd]

/-- Settles O19: the second frame is expected to fail again, so it is handled and answered with a status alone. -/
theorem repeatedFrameFailsAgain : Obligations.RepeatedFrameFailsAgain := by
  intro s t f rest e htakes h he hrsp
  obtain ⟨bytes, hans, -⟩ := coreStep_answer htakes h
  have hcode : e = codeOf (expectedStatus Config.params s f) ∧ [] = bytes := by simpa using hrsp.symm.trans hans
  have hfail : expectedStatus Config.params s f ≠ .ok := fun hok => he (hcode.1.trans (congrArg codeOf hok))
  have htakes' : t.Takes f rest := coreStep_takes_next htakes h
  obtain hsame | hhalted := expectedStatus_after_coreStep htakes h
  · obtain ⟨u, hstep, hrsp'⟩ := coreStep_next_of_failure htakes' (hsame.trans_ne hfail)
    exact ⟨u, hstep, .inl (by rw [hrsp', hsame, hcode.1])⟩
  · obtain ⟨u, hstep, hrsp'⟩ := coreStep_next_of_failure htakes' (hhalted.trans_ne nofun)
    exact ⟨u, hstep, .inr (by rw [hrsp', hhalted, codeOf])⟩

/-- Settles O23: each of the three looks at KS_VALID first. -/
theorem noScheduleRaisesKeyNotReady : Obligations.NoScheduleRaisesKeyNotReady := by
  rintro i s hk (⟨b, rfl⟩ | ⟨b, rfl⟩ | ⟨j, rfl⟩)
  · exact ⟨_, execEncblk_noKey hk b, s.raise_keyNotReady, rfl⟩
  · exact ⟨_, execDecblk_noKey hk b, s.raise_keyNotReady, rfl⟩
  · exact ⟨_, execRdrk_noKey hk j, s.raise_keyNotReady, rfl⟩

/-- Settles O29: only an unsupported constant of GFMUL sets the bit, by the effect of each command. -/
theorem unsupportedConstantHalts : Obligations.UnsupportedConstantHalts := by
  refine ⟨fun c x s hc => ⟨_, exec_gfmul_unsupported hc x s, s.raise_unsupportedOperation, ?_⟩, fun i s t h hclear hset => ?_⟩
  · simp [State.raise_halted]
  · obtain ⟨-, hop, -⟩ := (exec_effect h).errors
    exact exists_gfmul_of_ownStatus (s := s) (by simpa [hclear, hset] using hop)

end Sys2Proof.Machine
end

section
/-!
SUPPORT. STATUS when nothing is set, and the step that takes the reset signal (10_state.md R30; 70_reset_and_hazards.md R280 to R282).
-/

namespace Sys2Proof.Machine

/-- Without an error and without a schedule STATUS reads 0 (R30, R210). -/
theorem State.statusReg_eq_zero {s : State} (hkey : s.errInvalidKey = false) (hop : s.errUnsupportedOp = false)
    (hready : s.errKeyNotReady = false) (hcmd : s.errIllegalCmd = false) (hk : s.ksValid = false) :
    s.statusReg = 0x00#8 := by
  simp [State.statusReg, hkey, hop, hready, hcmd, hk]

/-- A step that takes the reset signal: whatever frame is pending is not looked at (R282). -/
theorem coreStep_of_resetIn {p : Params} {s : State} (h : s.resetIn = true) : coreStep p s = .next s.takeReset :=
  if_pos h

end Sys2Proof.Machine
end

section
/-!
PROOFS. The statements about reset (10_state.md R38; 70_reset_and_hazards.md).
-/

namespace Sys2Proof.Machine

/-- Settles O6: the stored bits and the streams by definition, W by the invariant, which holds after reset, and STATUS by its bits. -/
theorem resetStateValues : Obligations.ResetStateValues :=
  ⟨rfl, resetMeetsInvariant.no_schedule rfl, rfl, rfl, rfl, rfl, rfl, rfl, State.statusReg_eq_zero rfl rfl rfl rfl rfl, rfl, rfl⟩

/-- Settles O7: the signal is looked at first, and the state it leaves is the reset state but for RND, KI, DIR and the counter of
the free values. -/
theorem resetSignalReachesResetState : Obligations.ResetSignalReachesResetState :=
  fun s h => ⟨s.takeReset, coreStep_of_resetIn h, resetStateValues⟩

end Sys2Proof.Machine
end
